-- ==== Sys2Proof/Word.lean ====
section
/-! DEFINITION. The bit-vector types of the engine (spec/00_scope.md R4, R6; spec/30_encoding.md R35). Every value is an unsigned bit vector of a stated width, bit 0 the least significant (00_scope.md, section 6). -/

namespace Sys2Proof

/-- One input symbol, 8 bits (R4 `BYTE`): a message byte, a data field, a table index. -/
abbrev Byte := BitVec 8

/-- The accumulator's width, 16 bits (R4 `W`): the accumulator, a table entry, a response. -/
abbrev Word := BitVec 16

/-- A command word, 11 bits (R6 `CW`, R35): what the pins `cmd[10:0]` carry. -/
abbrev CommandWord := BitVec 11

/-- The opcode field of a command word, 3 bits (R35). -/
abbrev Opcode := BitVec 3

end Sys2Proof
end

