-- ==== Sys2Proof/Syntax.lean ====
section
/-! DEFINITION. The instructions: one constructor per row of spec/opcode_table.json. -/

namespace Sys2Proof

/-- A decoded command (spec/30_encoding.md R38, R43). Only `UPD` has an operand; the decoder drops the data field of every
other command (R39, U6; log entry 8). -/
inductive Instr where
  /-- `NOP`, opcode 0: no operation (R50). -/
  | nop
  /-- `INIT`, opcode 1: start a new computation (R51). -/
  | init
  /-- `UPD d`, opcode 2: fold the byte `d` into the CRC (R55). -/
  | upd (d : Byte)
  /-- `RD16`, opcode 3: read the 16-bit CRC (R70). -/
  | rd16
  /-- `RDLO`, opcode 4: read the low byte of the CRC (R71). -/
  | rdlo
  /-- `RDHI`, opcode 5: read the high byte of the CRC (R72). -/
  | rdhi
  /-- Reserved opcode 6 (R41). -/
  | reserved6
  /-- Reserved opcode 7 (R41). -/
  | reserved7
deriving DecidableEq, Repr

end Sys2Proof
end

