-- ==== Sys2Proof/WellFormed.lean ====
section
/-! DEFINITION. What is well formed. An `Instr` always is: its one operand is a `Byte`, and "for `UPD` every value of `d` is
legal" (spec/30_encoding.md R39). What can be ill formed is a NUMBER offered as a command word, a word that is not the
canonical one of its command, a word with a reserved opcode, and a frame too short to be checked. -/

namespace Sys2Proof

/-- Every instruction is well formed: the operand type carries the only bound (R36, R39). -/
def Instr.wellFormed : Instr → Bool
  | .nop => true
  | .init => true
  | .upd _ => true
  | .rd16 => true
  | .rdlo => true
  | .rdhi => true
  | .reserved6 => true
  | .reserved7 => true

/-- The number fits the eleven command pins (R35). -/
def isCommandWord (n : Nat) : Bool := n < 2 ^ 11

/-- The word is the canonical encoding of its command: the data field is zero unless the opcode is that of `UPD` (R39).
The canonical words of the reserved rows are `0x600` and `0x700` (opcode_table.json). -/
def isCanonical (w : CommandWord) : Bool := w.extractLsb' 8 3 == 2#3 || w.extractLsb' 0 8 == 0#8

/-- The word's opcode is not reserved (R41: the 512 words `0x600` to `0x7FF` are illegal, every other word is legal). -/
def isLegal (w : CommandWord) : Bool := w.extractLsb' 8 3 < 6#3

/-- The frame has the two trailing bytes that a check needs (spec/43_sequences.md R83). -/
def isCheckable (frame : List Byte) : Bool := 2 ≤ frame.length

end Sys2Proof
end

