-- ==== Sys2Proof/Decode.lean ====
section
/-! DEFINITION. The decoder and the encoder of command words (spec/30_encoding.md R35, R36, R38, R39, R43). -/

namespace Sys2Proof

/-- `op = w[10:8]` (R35). -/
def opField (w : CommandWord) : Opcode := w.extractLsb' 8 3

/-- `d = w[7:0]`, `d[0]` the least significant bit of the message byte (R36, R27). -/
def dField (w : CommandWord) : Byte := w.extractLsb' 0 8

/-- The decoder: total and without state (R43). Opcodes 6 and 7 are the two reserved rows of the table. -/
def decode (w : CommandWord) : Instr :=
  if opField w = 0#3 then .nop
  else if opField w = 1#3 then .init
  else if opField w = 2#3 then .upd (dField w)
  else if opField w = 3#3 then .rd16
  else if opField w = 4#3 then .rdlo
  else if opField w = 5#3 then .rdhi
  else if opField w = 6#3 then .reserved6
  else .reserved7

/-- Why a number is no command word. -/
inductive DecodeError where
  /-- It has a bit above bit 10, for which there is no command pin (R35). Raised by `commandWord`; safe: nothing runs. -/
  | widerThanCommandPort
deriving DecidableEq, Repr

/-- A number as the word on the eleven command pins; a number that needs more is rejected by name (log entry 7). -/
def commandWord (n : Nat) : Except DecodeError CommandWord :=
  if isCommandWord n then .ok (BitVec.ofNat 11 n) else .error .widerThanCommandPort

/-- The word a row of spec/opcode_table.json numbers: the low `nbits` bits of `w`, every bit above them zero. -/
def tableWord (nbits w : Nat) : Except DecodeError CommandWord := commandWord (w % 2 ^ nbits)

/-- The instruction the decoder reads from an instruction whose bits are `w`. -/
def decodeTableWord (nbits w : Nat) : Option Instr :=
  match tableWord nbits w with
  | .ok c => some (decode c)
  | .error _ => none

/-- The encoder: the canonical word of each command (R39, and opcode_table.json's `canonical` for the reserved rows). -/
def encode : Instr → CommandWord
  | .nop => 0x000#11
  | .init => 0x100#11
  | .upd d => 0x200#11 + d.setWidth 11
  | .rd16 => 0x300#11
  | .rdlo => 0x400#11
  | .rdhi => 0x500#11
  | .reserved6 => 0x600#11
  | .reserved7 => 0x700#11

/-- The `match` column of R38's table: what a word of this command equals under the mask `0x700`. -/
def matchWord : Instr → CommandWord
  | .nop => 0x000#11
  | .init => 0x100#11
  | .upd _ => 0x200#11
  | .rd16 => 0x300#11
  | .rdlo => 0x400#11
  | .rdhi => 0x500#11
  | .reserved6 => 0x600#11
  | .reserved7 => 0x700#11

/-- The `mask` column of R38's table, the same in every row. -/
def opcodeMask : CommandWord := 0x700#11

end Sys2Proof
end

