-- ==== Sys2Proof/Machine/Operands.lean ====
section
/-! DEFINITION. The operand forms (spec/30_encoding.md R36, spec/41_update.md R56, R64): the two bytes of a word, the
zero-extension of a byte, and the one computed table index. There is no sign extension anywhere (spec/00_scope.md, section 6). -/

namespace Sys2Proof.Machine

/-- `v[7:0]`, the low byte. -/
def lowByte (v : Word) : Byte := v.extractLsb' 0 8

/-- `v[15:8]`, the high byte. -/
def highByte (v : Word) : Byte := v.extractLsb' 8 8

/-- `zext_16(b)`. -/
def zext16 (b : Byte) : Word := b.setWidth 16

/-- The effective address of the engine's only load, `CRC[7:0] XOR d` (R55, R64). -/
def tableIndex (crc : Word) (d : Byte) : Byte := lowByte crc ^^^ d

end Sys2Proof.Machine
end

