-- ==== Sys2Proof/Machine/Crc.lean ====
section
/-! DEFINITION. The arithmetic of the engine: the one-bit step, the table generator and the two forms of the update
(spec/41_update.md R55 to R59, spec/20_memory.md R22). -/

namespace Sys2Proof.Machine

/-- The value of the accumulator before the first byte (spec/00_scope.md R4 `INIT`). -/
def initValue : Word := 0xFFFF#16

/-- The reflected polynomial constant (R4 `POLY_R`, 90_conflicts.md C2). -/
def polyR : Word := 0xA001#16

/-- The one-bit step (R57, R22): shift right by one; if the bit shifted out was 1, XOR the constant into the result. The spec
marks the step as general knowledge (G1; log entry 15). -/
def shr1 (v : Word) : Word := if v.getLsbD 0 then (v >>> 1) ^^^ polyR else v >>> 1

/-- `n` applications of the one-bit step. -/
def shrSteps : Nat → Word → Word
  | 0, v => v
  | n + 1, v => shrSteps n (shr1 v)

/-- The generator of the table (R22): eight one-bit steps on the zero-extended index. -/
def tableGen (i : Byte) : Word := shrSteps 8 (zext16 i)

/-- The update in the table form, which is the normative one (R55, C1). -/
def upd (a : Word) (b : Byte) : Word := (a >>> 8) ^^^ memRead (tableIndex a b)

/-- The update in the bit-serial form (R58). -/
def updSerial (a : Word) (b : Byte) : Word := shrSteps 8 (a ^^^ zext16 b)

end Sys2Proof.Machine
end

