-- ==== Sys2Proof/Config.lean ====
section
/-! DEFINITION. What an implementation fixes, and the free values. The algorithm itself has no free parameter (spec/00_scope.md R4). -/

namespace Sys2Proof

/-- The one implementation parameter (R5, D2): how the update is built. It changes no architectural result (R59), so the
command level never reads it; the clock level takes it as an argument. -/
inductive Variant where
  /-- The update is one table lookup (R55). -/
  | table
  /-- The update is eight shift steps (R58). -/
  | bitSerial
deriving DecidableEq, Repr

/-- The accumulator after power-up and before the first reset: unspecified (R102, U1), so a free value. Log entry 1. -/
opaque Config.powerUpCrc : Word

/-- The error flag after power-up and before the first reset: unspecified (R102, U1), so a free value. Log entry 1. -/
opaque Config.powerUpErr : Bool

end Sys2Proof
end

