-- ==== Sys2Proof/Machine/State.lean ====
section
/-! DEFINITION. The state of the engine at the level of accepted commands (spec/00_scope.md R7, spec/10_state.md). The whole
architectural state is 17 bits, `CRC` and `ERR`; beside them stand the host's side of a run (R9): the events it has still to
present and the responses it has been given. -/

namespace Sys2Proof.Machine

/-- A host event (R9): a reset, or a command word that reaches the engine. -/
inductive Event where
  /-- `Reset`: the host pulses `rst` (R100). -/
  | reset
  /-- `Cmd(w)`: the command word `w` is accepted (R37). -/
  | cmd (w : CommandWord)
deriving DecidableEq, Repr

/-- Plain data; no field holds a function. -/
structure State where
  /-- `CRC`, the 16-bit accumulator (R10): every value is legal. -/
  crc : Word
  /-- `ERR`, the sticky error flag (R13), which the pin `err` shows. -/
  err : Bool
  /-- The model's own field: a reset has happened since power-up (R19, R102; log entry 1). -/
  resetSeen : Bool
  /-- The host events not yet executed, the next one first (R9, R30; log entry 2). -/
  events : List Event
  /-- The responses delivered so far, the oldest first (R9 (a), R40; log entry 3). -/
  responses : List Word
deriving DecidableEq, Repr

/-- The engine has no fault that stops it: "no legal command can raise an exception" (R91), the one exception is a next state
(R90) and nothing is `stuck` (93_implementation_defined.md, R113). So there is no constructor (log entry 11). -/
inductive Fault : Type
deriving DecidableEq, Repr

/-- Why the model gives no meaning. -/
inductive Refusal where
  /-- Raised by `exec` for an instruction without a meaning; no arm raises it. Safe: the run stops. -/
  | notModelled (mnemonic : String)
  /-- Raised by `step` for a command before the first reset after power-up: "the run has no meaning (refuse)" (R19, R102, U1).
  Safe: the run stops. -/
  | commandBeforeFirstReset
deriving DecidableEq, Repr

/-- The machine right after reset (R19, R100): `CRC = 0xFFFF`, `ERR = 0`, and the host has presented and received nothing. -/
def State.reset : State :=
  { crc := 0xFFFF#16, err := false, resetSeen := true, events := [], responses := [] }

/-- The machine after power-up and before the first reset (R102): its registers are free values. -/
def State.powerUp : State :=
  { crc := Config.powerUpCrc, err := Config.powerUpErr, resetSeen := false, events := [], responses := [] }

end Sys2Proof.Machine
end

