-- ==== Sys2Proof/Machine/Flags.lean ====
section
/-! DEFINITION. The one flag, `ERR` (spec/10_state.md R13). There are no condition codes, and no arithmetic writes a flag (R14). -/

namespace Sys2Proof.Machine

/-- `ERR <- 1` (R90). -/
def State.setErr (s : State) : State := { s with err := true }

/-- `ERR <- 0` (R100); only reset does it. -/
def State.clearErr (s : State) : State := { s with err := false }

/-- The pin `err` shows `ERR` at all times (R13, R18). -/
def State.errPin (s : State) : Bool := s.err

end Sys2Proof.Machine
end

