-- ==== Sys2Proof/Machine/Ops.lean ====
section
/-! DEFINITION. The shared operations of the meanings: the accumulator, the response channel, the one exception, reset, and
the host's event stream. -/

namespace Sys2Proof.Machine

/-- `CRC <- v` (00_scope.md, section 6). -/
def State.setCrc (s : State) (v : Word) : State := { s with crc := v }

/-- `respond(v)`: one response, after all earlier ones (spec/30_encoding.md R40). -/
def State.respond (s : State) (v : Word) : State := { s with responses := s.responses ++ [v] }

/-- TAKING THE EXCEPTION: `raise IllegalCommand(w)` (spec/60_exceptions.md R90). Entry is the single write `ERR <- 1` (R95):
no saved pc, no saved status, no vector, no mode, and `w` itself is recorded nowhere. There is no return from it (R97). -/
def raiseIllegalCommand (s : State) : State := s.setErr

/-- A reset has happened (R102). -/
def State.markReset (s : State) : State := { s with resetSeen := true }

/-- `Reset` (spec/70_reset_and_hazards.md R100): `CRC <- 0xFFFF`, `ERR <- 0`; no response. What the host has been given
already, and what it will present next, are the host's (log entry 17). -/
def takeReset (s : State) : State := ((s.setCrc initValue).clearErr).markReset

/-- The state with the host's remaining events replaced. -/
def State.setEvents (s : State) (es : List Event) : State := { s with events := es }

/-- The host's next event and the state without it; none when the host presents nothing (R9, R30). -/
def nextEvent (s : State) : Option (Event × State) :=
  match s.events with
  | [] => none
  | e :: rest => some (e, s.setEvents rest)

/-- A run has meaning only from the first reset on (R19, R102, U1). -/
def commandsHaveMeaning (s : State) : Bool := s.resetSeen

/-- No event: the engine is idle and its state holds (R9, R114). -/
def idle (s : State) : State := s

/-- `w` becomes the very next event, from a host that has applied its reset (R102, HD9; log entry 4). -/
def presentNext (s : State) (w : CommandWord) : State := (s.setEvents (.cmd w :: s.events)).markReset

end Sys2Proof.Machine
end

