-- ==== Sys2Proof/Machine/Control.lean ====
section
/-! DEFINITION. The control commands `NOP` and `INIT` (spec/40_control.md). -/

namespace Sys2Proof.Machine

/-- `NOP` (R50): nothing. -/
def execNop (s : State) : Host.Outcome State Fault Refusal := .next s

/-- `INIT` (R51): `CRC <- 0xFFFF`; `ERR` keeps its value. -/
def execInit (s : State) : Host.Outcome State Fault Refusal := .next (s.setCrc initValue)

end Sys2Proof.Machine
end

