-- ==== Sys2Proof/Machine/Read.lean ====
section
/-! DEFINITION. The read commands `RD16`, `RDLO`, `RDHI` (spec/42_read.md). None of them changes `CRC` or `ERR`. -/

namespace Sys2Proof.Machine

/-- `RD16` (R70): `respond(CRC)`, with no final XOR. -/
def execRd16 (s : State) : Host.Outcome State Fault Refusal := .next (s.respond s.crc)

/-- `RDLO` (R71): `respond(zext_16(CRC[7:0]))`. -/
def execRdlo (s : State) : Host.Outcome State Fault Refusal := .next (s.respond (zext16 (lowByte s.crc)))

/-- `RDHI` (R72): `respond(zext_16(CRC[15:8]))`. -/
def execRdhi (s : State) : Host.Outcome State Fault Refusal := .next (s.respond (zext16 (highByte s.crc)))

end Sys2Proof.Machine
end

