-- ==== Sys2Proof/Machine/Reserved.lean ====
section
/-! DEFINITION. The two reserved opcodes (spec/30_encoding.md R41): each takes the engine's one exception (R90). -/

namespace Sys2Proof.Machine

/-- Opcode 6: `raise IllegalCommand(w)` (R41, R90); the engine goes on. -/
def execReserved6 (s : State) : Host.Outcome State Fault Refusal := .next (raiseIllegalCommand s)

/-- Opcode 7: `raise IllegalCommand(w)` (R41, R90); the engine goes on. -/
def execReserved7 (s : State) : Host.Outcome State Fault Refusal := .next (raiseIllegalCommand s)

end Sys2Proof.Machine
end

