-- ==== Sys2Proof/Machine/Update.lean ====
section
/-! DEFINITION. The update command `UPD` (spec/41_update.md). -/

namespace Sys2Proof.Machine

/-- `UPD d` (R55): `CRC <- upd(CRC, d)`, both reads of `CRC` before the one write. -/
def execUpd (d : Byte) (s : State) : Host.Outcome State Fault Refusal := .next (s.setCrc (upd s.crc d))

end Sys2Proof.Machine
end

