-- ==== Sys2Proof/Machine/Dispatch.lean ====
section
/-! DEFINITION. One arm per constructor of Instr (spec/30_encoding.md R38). -/

namespace Sys2Proof.Machine

/-- The effect of one accepted command (spec/00_scope.md R9, the arms `Cmd(w)` of the reference step function). -/
def exec (i : Instr) (s : State) : Host.Outcome State Fault Refusal :=
  match i with
  | .nop => Sys2Proof.Machine.execNop s
  | .init => Sys2Proof.Machine.execInit s
  | .upd d => Sys2Proof.Machine.execUpd d s
  | .rd16 => Sys2Proof.Machine.execRd16 s
  | .rdlo => Sys2Proof.Machine.execRdlo s
  | .rdhi => Sys2Proof.Machine.execRdhi s
  | .reserved6 => Sys2Proof.Machine.execReserved6 s
  | .reserved7 => Sys2Proof.Machine.execReserved7 s

end Sys2Proof.Machine
end

