-- ==== Sys2Proof/Machine/Step.lean ====
section
/-! DEFINITION. One architectural step: one accepted command, or one reset, or nothing when the host presents nothing
(spec/00_scope.md R7, R9). -/

namespace Sys2Proof.Machine

/-- Take the host's next event: a reset takes effect; a command word is decoded and executed, unless no reset has happened
since power-up (R19, R102); with no event the state holds (R9). -/
def step (s : State) : Host.Outcome State Fault Refusal :=
  match nextEvent s with
  | none => .next (idle s)
  | some (.reset, s') => .next (takeReset s')
  | some (.cmd w, s') =>
    if commandsHaveMeaning s' then exec (decode w) s' else .refused .commandBeforeFirstReset

/-- `s` with the table's word as the host's very next event, so that the next step runs exactly it (log entry 4). A number
that no command word is (log entry 7) presents nothing. -/
def State.withFetchWord (s : State) (nbits w : Nat) : State :=
  match tableWord nbits w with
  | .ok c => presentNext s c
  | .error _ => s

end Sys2Proof.Machine
end

