-- ==== Sys2Proof/Machine/Sequences.lean ====
section
/-! DEFINITION. Whole messages (spec/43_sequences.md): the CRC of a byte sequence, the command sequences `COMPUTE`, `APPEND`
and `CHECK`, and the host's verdicts. The sequences are the host's; the engine knows no message (R86). -/

namespace Sys2Proof.Machine

/-- `fold(m, a)` (R78). -/
def foldCrc : List Byte → Word → Word
  | [], a => a
  | b :: rest, a => foldCrc rest (upd a b)

/-- `crc(m)` (R78). -/
def crcOf (m : List Byte) : Word := foldCrc m initValue

/-- Commands as the host presents them: each by its canonical word (R39). -/
def present (is : List Instr) : List Event := is.map (fun i => .cmd (encode i))

/-- `COMPUTE m` (R45, R78): `INIT`, one `UPD` per byte, `RD16`. -/
def computeSeq (m : List Byte) : List Instr := .init :: (m.map .upd ++ [.rd16])

/-- `APPEND m` (R45, R80): `INIT`, one `UPD` per byte, `RDLO`, `RDHI`. -/
def appendSeq (m : List Byte) : List Instr := .init :: (m.map .upd ++ [.rdlo, .rdhi])

/-- `CHECK f` (R45, R83 (b)): `INIT`, one `UPD` per byte of the frame, `RD16`; the same words as `COMPUTE f`. -/
def checkSeq (f : List Byte) : List Instr := computeSeq f

/-- The covered bytes of a frame: `address ++ function ++ payload` (R81, R26). -/
def coveredBytes (address function : Byte) (payload : List Byte) : List Byte := address :: function :: payload

/-- The frame the host builds from the two responses of `APPEND`: `m ++ [crc_lo] ++ [crc_hi]` (R80, R25). -/
def frameOf (m : List Byte) (rlo rhi : Word) : List Byte := m ++ [lowByte rlo, lowByte rhi]

/-- The message with its CRC on the wire, low byte first (R25, R80). -/
def withCrc (m : List Byte) : List Byte := m ++ [lowByte (crcOf m), highByte (crcOf m)]

/-- The verdict of the compare form (R83 (a)): the two response bytes against the two stored bytes. -/
def compareVerdict (rlo rhi : Word) (x y : Byte) : Bool := lowByte rlo == x && lowByte rhi == y

/-- The verdict of the residue form (R83 (b)): valid if the response is `0x0000`. -/
def residueVerdict (r : Word) : Bool := r == 0x0000#16

/-- What one event does to the message fed so far: `INIT` and reset start a new one, `UPD` adds its byte (R86). -/
def feedEvent (m : List Byte) : Event → List Byte
  | .reset => []
  | .cmd w =>
    match decode w with
    | .nop => m
    | .init => []
    | .upd d => m ++ [d]
    | .rd16 => m
    | .rdlo => m
    | .rdhi => m
    | .reserved6 => m
    | .reserved7 => m

/-- The bytes fed since the last `INIT` or reset, where `m` had been fed before the events (R52, R79 (e), R86). -/
def openMessage : List Byte → List Event → List Byte
  | m, [] => m
  | m, e :: es => openMessage (feedEvent m e) es

end Sys2Proof.Machine
end

