-- ==== Sys2Proof/Machine/Assembler.lean ====
section
/-! DEFINITION. The textual form of a command stream (spec/30_encoding.md R44) and the pseudo-instructions (R45): one command
per line, mnemonics in upper case, a byte operand as two hexadecimal digits after `0x`, a comment from `;` to the end of the
line. What R44 leaves open of the text is log entry 13. -/

namespace Sys2Proof.Machine

/-- One line that is not blank. -/
inductive AsmLine where
  | nop
  | init
  | upd (d : Byte)
  | rd16
  | rdlo
  | rdhi
  /-- `.word 0xNNN`: any 11-bit word. -/
  | word (w : CommandWord)
  /-- `RESET`: not a command word, a `Reset` event. -/
  | reset
  /-- `COMPUTE b0, ..., b(n-1)` with `n >= 0`. -/
  | compute (m : List Byte)
  /-- `APPEND b0, ..., b(n-1)`. -/
  | append (m : List Byte)
  /-- `CHECK b0, ..., b(n-1), lo, hi`. -/
  | check (m : List Byte) (lo hi : Byte)
deriving DecidableEq, Repr

/-- Why a line is no line of R44 or R45. -/
inductive AsmError where
  /-- The first word is no mnemonic, no directive and no pseudo-instruction. -/
  | unknownMnemonic
  /-- Too few or too many operands. -/
  | operandCount
  /-- An operand is not `0x` and the right number of hexadecimal digits, or the word needs more than 11 bits. -/
  | badOperand
deriving DecidableEq, Repr

/-- The events a line stands for (R44, R45). -/
def AsmLine.events : AsmLine → List Event
  | .nop => present [.nop]
  | .init => present [.init]
  | .upd d => present [.upd d]
  | .rd16 => present [.rd16]
  | .rdlo => present [.rdlo]
  | .rdhi => present [.rdhi]
  | .word w => [.cmd w]
  | .reset => [.reset]
  | .compute m => present (computeSeq m)
  | .append m => present (appendSeq m)
  | .check m lo hi => present (checkSeq (m ++ [lo, hi]))

/-- White space inside a line. -/
def isBlank (c : Char) : Bool := c == ' ' || c == '\t' || c == '\r'

/-- The line without its comment. -/
def dropComment (cs : List Char) : List Char := cs.takeWhile (· != ';')

/-- The text without the white space around it. -/
def trimBlanks (cs : List Char) : List Char := ((cs.dropWhile isBlank).reverse.dropWhile isBlank).reverse

/-- The pieces of a text between the separators. -/
def splitAtChar (sep : Char) : List Char → List (List Char)
  | [] => [[]]
  | c :: cs =>
    if c = sep then [] :: splitAtChar sep cs
    else
      match splitAtChar sep cs with
      | [] => [[c]]
      | piece :: pieces => (c :: piece) :: pieces

/-- The value of a hexadecimal digit. -/
def hexDigit (c : Char) : Option Nat :=
  if '0' ≤ c ∧ c ≤ '9' then some (c.toNat - 48)
  else if 'A' ≤ c ∧ c ≤ 'F' then some (c.toNat - 55)
  else if 'a' ≤ c ∧ c ≤ 'f' then some (c.toNat - 87)
  else none

/-- A byte operand, `0xHH`. -/
def parseByte : List Char → Option Byte
  | ['0', 'x', h, l] =>
    match hexDigit h, hexDigit l with
    | some a, some b => some (BitVec.ofNat 8 (16 * a + b))
    | _, _ => none
  | _ => none

/-- A word operand, `0xNNN`, of at most 11 bits. -/
def parseWord : List Char → Option CommandWord
  | ['0', 'x', h, m, l] =>
    match hexDigit h, hexDigit m, hexDigit l with
    | some a, some b, some c => (commandWord (256 * a + 16 * b + c)).toOption
    | _, _, _ => none
  | _ => none

/-- The operands: nothing, or pieces separated by commas. -/
def operands (cs : List Char) : List (List Char) :=
  if cs = [] then [] else (splitAtChar ',' cs).map trimBlanks

/-- All operands as bytes. -/
def parseBytes : List (List Char) → Option (List Byte)
  | [] => some []
  | t :: ts =>
    match parseByte t, parseBytes ts with
    | some b, some bs => some (b :: bs)
    | _, _ => none

/-- A command without operands. -/
def plainLine (l : AsmLine) (ops : List (List Char)) : Except AsmError AsmLine :=
  if ops = [] then .ok l else .error .operandCount

/-- A command with one operand. -/
def oneOperand (ops : List (List Char)) (f : List Char → Option AsmLine) : Except AsmError AsmLine :=
  match ops with
  | [t] => ((f t).map Except.ok).getD (.error .badOperand)
  | _ => .error .operandCount

/-- A pseudo-instruction over bytes. -/
def bytesLine (ops : List (List Char)) (f : List Byte → Except AsmError AsmLine) : Except AsmError AsmLine :=
  match parseBytes ops with
  | some bs => f bs
  | none => .error .badOperand

/-- `CHECK` needs the two stored bytes at the end (R83). -/
def checkLine (bs : List Byte) : Except AsmError AsmLine :=
  match bs.reverse with
  | hi :: lo :: m => .ok (.check m.reverse lo hi)
  | _ => .error .operandCount

/-- A mnemonic and its operands (R44, R45). -/
def parseCommand (mnemonic : List Char) (ops : List (List Char)) : Except AsmError AsmLine :=
  if mnemonic = ['N', 'O', 'P'] then plainLine .nop ops
  else if mnemonic = ['I', 'N', 'I', 'T'] then plainLine .init ops
  else if mnemonic = ['U', 'P', 'D'] then oneOperand ops (fun t => (parseByte t).map .upd)
  else if mnemonic = ['R', 'D', '1', '6'] then plainLine .rd16 ops
  else if mnemonic = ['R', 'D', 'L', 'O'] then plainLine .rdlo ops
  else if mnemonic = ['R', 'D', 'H', 'I'] then plainLine .rdhi ops
  else if mnemonic = ['.', 'w', 'o', 'r', 'd'] then oneOperand ops (fun t => (parseWord t).map .word)
  else if mnemonic = ['R', 'E', 'S', 'E', 'T'] then plainLine .reset ops
  else if mnemonic = ['C', 'O', 'M', 'P', 'U', 'T', 'E'] then bytesLine ops (fun bs => .ok (.compute bs))
  else if mnemonic = ['A', 'P', 'P', 'E', 'N', 'D'] then bytesLine ops (fun bs => .ok (.append bs))
  else if mnemonic = ['C', 'H', 'E', 'C', 'K'] then bytesLine ops checkLine
  else .error .unknownMnemonic

/-- One line of text: its command, or nothing where the line is blank. -/
def parseLine (cs : List Char) : Except AsmError (Option AsmLine) :=
  let text := trimBlanks (dropComment cs)
  if text = [] then .ok none
  else
    (parseCommand (text.takeWhile (fun c => !isBlank c))
      (operands (trimBlanks (text.dropWhile (fun c => !isBlank c))))).map some

/-- The events of consecutive lines. -/
def assembleLines : List (List Char) → Except AsmError (List Event)
  | [] => .ok []
  | l :: ls =>
    match parseLine l with
    | .error e => .error e
    | .ok none => assembleLines ls
    | .ok (some line) =>
      match assembleLines ls with
      | .error e => .error e
      | .ok es => .ok (line.events ++ es)

/-- A text of lines as the events the host presents. -/
def assemble (text : List Char) : Except AsmError (List Event) := assembleLines (splitAtChar '\n' text)

/-- The hexadecimal digit of a number below 16, in upper case. -/
def hexChar (n : Nat) : Char := if n < 10 then Char.ofNat (48 + n) else Char.ofNat (55 + n)

/-- A byte operand as R44 writes it. -/
def printByte (b : Byte) : List Char := ['0', 'x', hexChar (b.toNat / 16), hexChar (b.toNat % 16)]

/-- A word operand as R44 writes it. -/
def printWord (w : CommandWord) : List Char :=
  ['0', 'x', hexChar (w.toNat / 256), hexChar (w.toNat / 16 % 16), hexChar (w.toNat % 16)]

/-- Byte operands with a comma and a space between them, a space before the first. -/
def printBytes : List Byte → List Char
  | [] => []
  | [b] => ' ' :: printByte b
  | b :: bs => ' ' :: printByte b ++ ',' :: printBytes bs

/-- The text of a line (R44, R45). -/
def printLine : AsmLine → List Char
  | .nop => ['N', 'O', 'P']
  | .init => ['I', 'N', 'I', 'T']
  | .upd d => ['U', 'P', 'D'] ++ ' ' :: printByte d
  | .rd16 => ['R', 'D', '1', '6']
  | .rdlo => ['R', 'D', 'L', 'O']
  | .rdhi => ['R', 'D', 'H', 'I']
  | .word w => ['.', 'w', 'o', 'r', 'd'] ++ ' ' :: printWord w
  | .reset => ['R', 'E', 'S', 'E', 'T']
  | .compute m => ['C', 'O', 'M', 'P', 'U', 'T', 'E'] ++ printBytes m
  | .append m => ['A', 'P', 'P', 'E', 'N', 'D'] ++ printBytes m
  | .check m lo hi => ['C', 'H', 'E', 'C', 'K'] ++ printBytes (m ++ [lo, hi])

end Sys2Proof.Machine
end

