-- ==== Sys2Proof/Machine/Clock.lean ====
section
/-! DEFINITION. The engine at the level of clock edges and pins, in both variants (spec/10_state.md R17, R18;
spec/30_encoding.md R37, R40; spec/41_update.md R58; spec/70_reset_and_hazards.md R100, R101, R112). The command level
(`State`, `exec`, `step`) is the normative one and uses nothing of this file (R7); statements say that every clocked run is a
run of the command level. -/

namespace Sys2Proof.Machine

/-- The input pins at one rising edge of `clk` (R18). -/
structure Pins where
  /-- `rst`: synchronous reset, active high. -/
  rst : Bool
  /-- `cmd_valid`: the host presents a word. -/
  cmdValid : Bool
  /-- `cmd[10:0]`. -/
  cmd : CommandWord
deriving DecidableEq, Repr

/-- Everything the clocked engine stores (R10, R13, R17, R40). -/
structure ClockState where
  /-- `CRC`, which holds an intermediate value while `BUSY = 1` (R17). -/
  crc : Word
  /-- `ERR`, the pin `err`. -/
  err : Bool
  /-- `BUSY`, `BITSERIAL` only. -/
  busy : Bool
  /-- `BITCNT`, `BITSERIAL` only: the shift steps still to do. -/
  bitcnt : BitVec 4
  /-- The pins `rsp_valid` and `rsp` in the cycle that follows the edge; `none` is `rsp_valid = 0`, where `rsp` has no value
  (R40, U3). -/
  rsp : Option Word
deriving DecidableEq, Repr

/-- The pin `cmd_ready` (R37): always 1 in the `TABLE` variant, `BUSY = 0` in the `BITSERIAL` variant. -/
def cmdReady (v : Variant) (c : ClockState) : Bool :=
  match v with
  | .table => true
  | .bitSerial => !c.busy

/-- A word is accepted at this edge (R37). -/
def accepts (v : Variant) (c : ClockState) (p : Pins) : Bool := !p.rst && p.cmdValid && cmdReady v c

/-- The state after an edge with `rst = 1` (R100, R19). -/
def clockReset : ClockState := { crc := initValue, err := false, busy := false, bitcnt := 0#4, rsp := none }

/-- One shift edge of an update in progress (R58): `BUSY` falls when `BITCNT` reaches 0 (log entry 12). -/
def shiftEdge (c : ClockState) : ClockState :=
  { c with crc := shr1 c.crc, bitcnt := c.bitcnt - 1#4, busy := c.bitcnt - 1#4 != 0#4, rsp := none }

/-- The accepting edge of `UPD d`: the whole update in the `TABLE` variant, the XOR that starts it in the `BITSERIAL` variant
(R55, R58, R112). -/
def updEdge (v : Variant) (c : ClockState) (d : Byte) : ClockState :=
  match v with
  | .table => { c with crc := upd c.crc d, rsp := none }
  | .bitSerial => { c with crc := c.crc ^^^ zext16 d, bitcnt := 8#4, busy := true, rsp := none }

/-- The accepting edge of a command word (R112). -/
def acceptEdge (v : Variant) (c : ClockState) (w : CommandWord) : ClockState :=
  match decode w with
  | .nop => { c with rsp := none }
  | .init => { c with crc := initValue, rsp := none }
  | .upd d => updEdge v c d
  | .rd16 => { c with rsp := some c.crc }
  | .rdlo => { c with rsp := some (zext16 (lowByte c.crc)) }
  | .rdhi => { c with rsp := some (zext16 (highByte c.crc)) }
  | .reserved6 => { c with err := true, rsp := none }
  | .reserved7 => { c with err := true, rsp := none }

/-- One rising edge of `clk`: reset first (R94), then an update in progress, then an accepted command; otherwise the state
holds. -/
def edge (v : Variant) (c : ClockState) (p : Pins) : ClockState :=
  if p.rst then clockReset
  else if !cmdReady v c then shiftEdge c
  else if p.cmdValid then acceptEdge v c p.cmd
  else { c with rsp := none }

/-- The state after a sequence of edges. -/
def runEdges (v : Variant) : ClockState → List Pins → ClockState
  | c, [] => c
  | c, p :: ps => runEdges v (edge v c p) ps

/-- The host events of a sequence of edges: an edge with `rst = 1` is a `Reset`, an accepted word a `Cmd` (R7, R9, R37). -/
def acceptedEvents (v : Variant) : ClockState → List Pins → List Event
  | _, [] => []
  | c, p :: ps =>
    (if p.rst then [Event.reset] else if accepts v c p then [Event.cmd p.cmd] else [])
      ++ acceptedEvents v (edge v c p) ps

/-- The values on `rsp` in the cycles with `rsp_valid = 1` after each of the edges (R40). -/
def seenResponses (v : Variant) : ClockState → List Pins → List Word
  | _, [] => []
  | c, p :: ps => (edge v c p).rsp.toList ++ seenResponses v (edge v c p) ps

/-- The output pins in the cycle after an edge (R18). -/
structure OutPins where
  /-- `cmd_ready`. -/
  cmdReady : Bool
  /-- `rsp_valid` and `rsp`: `none` is `rsp_valid = 0`. -/
  rsp : Option Word
  /-- `err`. -/
  err : Bool
deriving DecidableEq, Repr

/-- What the host sees on the pins (R18, R112). -/
def outPins (v : Variant) (c : ClockState) : OutPins := { cmdReady := cmdReady v c, rsp := c.rsp, err := c.err }

/-- The states the clocked engine can be in from its first reset on (R17): no hidden state in the `TABLE` variant; in the
`BITSERIAL` variant `BITCNT` is 8 down to 0 and `BUSY` says that it is not 0. -/
def Consistent (v : Variant) (c : ClockState) : Bool :=
  match v with
  | .table => !c.busy && c.bitcnt == 0#4
  | .bitSerial => c.bitcnt ≤ 8#4 && c.busy == (c.bitcnt != 0#4)

/-- The accumulator as the command level has it: what it will hold when the update in progress is finished (R7, R58). -/
def settledCrc (c : ClockState) : Word := shrSteps c.bitcnt.toNat c.crc

/-- The command-level state that a clocked state stands for, with the host's events and the responses given (R7). -/
def commandView (c : ClockState) (es : List Event) (rs : List Word) : State :=
  { crc := settledCrc c, err := c.err, resetSeen := true, events := es, responses := rs }

end Sys2Proof.Machine
end

