-- ==== Sys2Proof/Machine/Reference.lean ====
section
/-! DEFINITION. The spec's own reference step function and what a run of it shows (spec/00_scope.md R9), over the pair
`(CRC, ERR)` and written from the numbers of the word, independent of the decoder and of the meanings. Statements compare the
machine with it. -/

namespace Sys2Proof.Machine

/-- `(CRC, ERR)`, the whole architectural state (R9). -/
abbrev RefState := Word × Bool

/-- `exec : (CRC, ERR) x Event -> (CRC', ERR') x optional response`, R9 arm by arm; `op` is the word's number divided by 256,
`d` the remainder. -/
def refExec (s : RefState) : Event → RefState × Option Word
  | .reset => ((0xFFFF#16, false), none)
  | .cmd w =>
    match w.toNat / 256 with
    | 0 => (s, none)
    | 1 => ((0xFFFF#16, s.2), none)
    | 2 => ((upd s.1 (BitVec.ofNat 8 (w.toNat % 256)), s.2), none)
    | 3 => (s, some s.1)
    | 4 => (s, some (zext16 (lowByte s.1)))
    | 5 => (s, some (zext16 (highByte s.1)))
    | _ => ((s.1, true), none)

/-- The final state of a run (R9 (b)). -/
def refFinal : RefState → List Event → RefState
  | s, [] => s
  | s, e :: es => refFinal (refExec s e).1 es

/-- The responses of a run, one per read command, in order (R9 (a)). -/
def refResponses : RefState → List Event → List Word
  | _, [] => []
  | s, e :: es => (refExec s e).2.toList ++ refResponses (refExec s e).1 es

/-- The value of the `err` output after each event of a run (R9 (c)). -/
def refErrTrace : RefState → List Event → List Bool
  | _, [] => []
  | s, e :: es => (refExec s e).1.2 :: refErrTrace (refExec s e).1 es

end Sys2Proof.Machine
end

