-- ==== Sys2Proof/Machine/Run.lean ====
section
/-! DEFINITION. Runs of the machine from a list of host events, and the third observation of spec/00_scope.md R9. -/

namespace Sys2Proof.Machine

/-- The state with the host about to present `es`. -/
def State.withEvents (s : State) (es : List Event) : State := s.setEvents es

/-- `k` steps, stopping at the first fault or refusal: `Host.Core.run` of this machine (`core_run_eq_runSteps` in
Laws/Step.lean), said over the machine's own types. -/
def runSteps : Nat → State → Host.Outcome State Fault Refusal
  | 0, s => .next s
  | k + 1, s =>
    match step s with
    | .next t => runSteps k t
    | .fault f => .fault f
    | .refused r => .refused r

/-- Execute the events `es` from `s` by as many steps of the machine. -/
def runEvents (s : State) (es : List Event) : Host.Outcome State Fault Refusal := runSteps es.length (s.withEvents es)

/-- The pin `err` after each of the next `k` steps, while they answer a next state (R9 (c)). -/
def errTrace : Nat → State → List Bool
  | 0, _ => []
  | k + 1, s =>
    match step s with
    | .next s' => s'.errPin :: errTrace k s'
    | .fault _ => []
    | .refused _ => []

end Sys2Proof.Machine
end

