-- ==== Sys2Proof/Safety.lean ====
section
/-! DEFINITION. What counts as a safe run. The engine itself stops for nothing; a run is safe when the host keeps its duties
(spec/43_sequences.md R89, spec/70_reset_and_hazards.md R107), and its results count only while `ERR = 0` (spec/60_exceptions.md
R97). -/

namespace Sys2Proof.Machine

/-- The results since the last reset count: a reset has happened and no illegal command since (R97, R102). This is the premise
of every claim about results. -/
def State.trusted (s : State) : Bool := s.resetSeen && !s.err

/-- The fault state of R97 and U2: `ERR = 1`. The engine goes on in it, and every result since the last reset is suspect. -/
def State.faulted (s : State) : Bool := s.err

/-- The run has ended: the host has presented its last event and the engine has finished it (R114). -/
def State.ended (s : State) : Bool := s.events.isEmpty

/-- A final state of a run: ended and trusted. A fault state is never final (R97; log entry 21). -/
def State.isFinal (s : State) : Bool := s.ended && s.trusted

/-- A claim about results, in the form that R97 and U2 ask for: under the premise `ERR = 0`, the run over `es` from `s` ends in a
final state of which `Q` holds. -/
def ResultClaim (s : State) (es : List Event) (Q : State → Prop) : Prop :=
  s.trusted = true → ∃ t, runEvents s es = .next t ∧ t.isFinal = true ∧ Q t

/-- The event is an accepted word with a reserved opcode (R41). -/
def Event.isIllegal : Event → Bool
  | .reset => false
  | .cmd w => !isLegal w

/-- HD8: no reserved word. -/
def avoidsReserved (es : List Event) : Bool := es.all (fun e => !e.isIllegal)

/-- HD9: the run begins with a reset (R19, R102). -/
def beginsWithReset : List Event → Bool
  | .reset :: _ => true
  | _ => false

/-- Whether an illegal command has been accepted since the last reset, where `earlier` says so of the time before (R97). -/
def illegalSinceReset : Bool → List Event → Bool
  | earlier, [] => earlier
  | _, .reset :: es => illegalSinceReset false es
  | earlier, .cmd w :: es => illegalSinceReset (earlier || !isLegal w) es

/-- The event is one of the three read commands (R40). -/
def Event.isRead : Event → Bool
  | .reset => false
  | .cmd w => decode w == .rd16 || decode w == .rdlo || decode w == .rdhi

/-- How many read commands stand among the events. -/
def readsIn (es : List Event) : Nat := (es.filter Event.isRead).length

/-- HD4: an event that may stand between `RDLO` and `RDHI`: no `UPD`, no `INIT`, no reset. -/
def Event.keepsCrc : Event → Bool
  | .reset => false
  | .cmd w =>
    match decode w with
    | .nop => true
    | .init => false
    | .upd _ => false
    | .rd16 => true
    | .rdlo => true
    | .rdhi => true
    | .reserved6 => true
    | .reserved7 => true

/-- The accounting of responses against read commands: those delivered and those still to come are `k` together (R40). -/
def ResponsesAccounted (k : Nat) (s : State) : Prop := s.responses.length + readsIn s.events = k

end Sys2Proof.Machine
end

