-- ==== Sys2Proof/Certificates/Slice0/Obligations.lean ====
section
/-! DEFINITION. The statements for the provers. Each docstring names the rule of spec/ it formalises.

What a run does is stated for either value of `ERR` (R13, R97; "Start state: any", R78). What its results are worth is stated as
R97 and U2 ask, by `ResultClaim`: under the premise `ERR = 0`, and of a final state, which `ERR = 1` never is. That both stand
side by side is the model's choice (log entry 20). -/

open Sys2Proof Sys2Proof.Machine

/-! ### Reset and the time before it -/

/-- R19: the reset values, at both levels, and the output pins in the first cycle after reset. The clause that
`State.reset.responses` is empty is no value of R19: it is the model's choice for its own field (log entry 16). -/
def Obligations.ResetLeavesTheSpecifiedValues : Prop :=
  State.reset.crc = 0xFFFF#16 ∧ State.reset.err = false ∧ State.reset.errPin = false ∧ State.reset.responses = [] ∧
  clockReset.crc = 0xFFFF#16 ∧ clockReset.err = false ∧ clockReset.busy = false ∧ clockReset.bitcnt = 0#4 ∧
  ∀ v : Variant, outPins v clockReset = { cmdReady := true, rsp := none, err := false }

/-- R100: a `Reset` event, and an edge with `rst = 1` from whatever the clocked engine stores. Of the first clause R100 gives
`crc` and `err` alone: that a `Reset` sets `resetSeen` is the model's (log entry 1), and so is that it keeps the later events
and the responses delivered (log entry 17). -/
def Obligations.ResetWritesCrcAndErrAndWins : Prop :=
  (∀ (s : State) (es : List Event), s.events = .reset :: es →
    step s = .next { crc := 0xFFFF#16, err := false, resetSeen := true, events := es, responses := s.responses }) ∧
  (∀ (v : Variant) (c : ClockState) (p : Pins), p.rst = true →
    edge v c p = { crc := 0xFFFF#16, err := false, busy := false, bitcnt := 0#4, rsp := none } ∧
    accepts v c p = false ∧ acceptedEvents v c [p] = [.reset]) ∧
  (∀ (v : Variant) (c : ClockState) (ps : List Pins), ps ≠ [] → (∀ p ∈ ps, p.rst = true) →
    runEdges v c ps = clockReset) ∧
  (∀ (v : Variant) (w : CommandWord), accepts v clockReset { rst := false, cmdValid := true, cmd := w } = true) ∧
  (∀ v : Variant, outPins v clockReset = { cmdReady := true, rsp := none, err := false }) ∧
  exec .init State.reset = .next State.reset

/-- R102, D11, U1: before the first reset a command has no meaning, an idle engine stays idle, and the first reset gives the
reset values whatever the registers held. The field `resetSeen` is the model's (log entry 1). -/
def Obligations.CommandsBeforeFirstResetAreRefused : Prop :=
  ∀ (s : State) (w : CommandWord) (es : List Event), s.resetSeen = false →
    runEvents s (.cmd w :: es) = .refused .commandBeforeFirstReset ∧
    runEvents s (.reset :: es) =
      runEvents { crc := 0xFFFF#16, err := false, resetSeen := true, events := [], responses := s.responses } es ∧
    step (s.withEvents []) = .next (s.withEvents [])

/-! ### Encoding -/

/-- R43: the decoder is the case table of the rule on all 2048 words, and the two round trips hold. -/
def Obligations.DecodeIsTotalAndInvertsEncode : Prop :=
  (∀ w : CommandWord, decode w =
    match w.toNat / 256 with
    | 0 => .nop
    | 1 => .init
    | 2 => .upd (BitVec.ofNat 8 (w.toNat % 256))
    | 3 => .rd16
    | 4 => .rdlo
    | 5 => .rdhi
    | 6 => .reserved6
    | _ => .reserved7) ∧
  (∀ i : Instr, decode (encode i) = i) ∧
  (∀ w : CommandWord, (opField w = 2#3 ∨ dField w = 0#8) → encode (decode w) = w)

/-- R38: under the mask `0x700` a word selects exactly one row, and the row gives its operation. -/
def Obligations.OpcodeMapSelectsOneRowAndItsOperation : Prop :=
  ∀ (w : CommandWord) (s : State),
    (∃ k : Fin 8, w &&& 0x700#11 = BitVec.ofNat 11 (256 * k.val) ∧
      ∀ j : Fin 8, w &&& 0x700#11 = BitVec.ofNat 11 (256 * j.val) → j = k) ∧
    (w &&& 0x700#11 = 0x000#11 → exec (decode w) s = .next s) ∧
    (w &&& 0x700#11 = 0x100#11 → exec (decode w) s = .next { s with crc := 0xFFFF#16 }) ∧
    (w &&& 0x700#11 = 0x200#11 → exec (decode w) s = .next { s with crc := upd s.crc (w.extractLsb' 0 8) }) ∧
    (w &&& 0x700#11 = 0x300#11 → exec (decode w) s = .next { s with responses := s.responses ++ [s.crc] }) ∧
    (w &&& 0x700#11 = 0x400#11 →
      exec (decode w) s = .next { s with responses := s.responses ++ [(s.crc.extractLsb' 0 8).setWidth 16] }) ∧
    (w &&& 0x700#11 = 0x500#11 →
      exec (decode w) s = .next { s with responses := s.responses ++ [(s.crc.extractLsb' 8 8).setWidth 16] }) ∧
    (w &&& 0x700#11 = 0x600#11 → exec (decode w) s = .next { s with err := true }) ∧
    (w &&& 0x700#11 = 0x700#11 → exec (decode w) s = .next { s with err := true })

/-- R39: the data field is ignored outside `UPD`, a non-zero one is no error, and every byte is legal for `UPD`. -/
def Obligations.DataFieldIsIgnoredOutsideUpd : Prop :=
  (∀ w w' : CommandWord, opField w = opField w' → opField w ≠ 2#3 → decode w = decode w') ∧
  encode .nop = 0x000#11 ∧ encode .init = 0x100#11 ∧ encode .rd16 = 0x300#11 ∧ encode .rdlo = 0x400#11 ∧
  encode .rdhi = 0x500#11 ∧
  (∀ (w : CommandWord) (s : State), opField w < 6#3 → ∃ t, exec (decode w) s = .next t ∧ t.err = s.err) ∧
  (∀ d : Byte, decode (0x200#11 + d.setWidth 11) = .upd d ∧ encode (.upd d) = 0x200#11 + d.setWidth 11)

/-- Words written out from R35 and R38 (spec/95_test_vectors.md, section 2.7), one or two per row: a sanity statement. -/
def Obligations.WrittenOutWordsDecode : Prop :=
  decode 0b00000000000#11 = .nop ∧ decode 0b00011111111#11 = .nop ∧ decode 0b00100000000#11 = .init ∧
  decode 0b01011111110#11 = .upd 0xFE#8 ∧ decode 0b01000000001#11 = .upd 0x01#8 ∧ decode 0b01100000000#11 = .rd16 ∧
  decode 0b10000000000#11 = .rdlo ∧ decode 0b10111111111#11 = .rdhi ∧ decode 0b11010100101#11 = .reserved6 ∧
  decode 0b11111111111#11 = .reserved7

/-- The model's choice (log entry 7): a number with a bit above bit 10 is no command word, every other number is one. -/
def Obligations.NumbersAboveElevenBitsAreNoWords : Prop :=
  ∀ nbits w : Nat,
    (w % 2 ^ nbits < 2048 → decodeTableWord nbits w = some (decode (BitVec.ofNat 11 (w % 2 ^ nbits)))) ∧
    (2048 ≤ w % 2 ^ nbits → decodeTableWord nbits w = none)

/-! ### One step -/

/-- R7, R9, R30: a step takes the host's next event; a command word is decoded and executed on the state without it; with
no event the state holds. -/
def Obligations.StepRunsTheDecodedCommand : Prop :=
  (∀ (s : State) (w : CommandWord) (es : List Event), s.resetSeen = true → s.events = .cmd w :: es →
    step s = exec (decode w) { s with events := es }) ∧
  (∀ s : State, s.events = [] → step s = .next s)

/-- The model's convention (log entry 4): the next step from `withFetchWord` runs exactly the word's instruction. -/
def Obligations.FetchWordIsTheNextInstruction : Prop :=
  ∀ (s : State) (nbits w : Nat) (i : Instr), decodeTableWord nbits w = some i →
    step (s.withFetchWord nbits w) = exec i { s with resetSeen := true }

/-! ### The commands -/

/-- R50: `NOP`. -/
def Obligations.NopChangesNothing : Prop :=
  (∀ w : CommandWord, w.toNat ≤ 0x0FF → decode w = .nop) ∧ encode .nop = 0x000#11 ∧
  (∀ s : State, exec .nop s = .next s) ∧
  (∀ (s : State) (w : CommandWord) (es : List Event), s.resetSeen = true → w.toNat ≤ 0x0FF →
    runEvents s (.cmd w :: es) = runEvents s es)

/-- R51: `INIT`. -/
def Obligations.InitWritesOnlyTheAccumulator : Prop :=
  (∀ w : CommandWord, 0x100 ≤ w.toNat → w.toNat ≤ 0x1FF → decode w = .init) ∧ encode .init = 0x100#11 ∧
  (∀ s : State, exec .init s = .next { s with crc := 0xFFFF#16 }) ∧
  (∀ s t : State, s.err = t.err → s.resetSeen = t.resetSeen → s.events = t.events → s.responses = t.responses →
    exec .init s = exec .init t) ∧
  exec .init State.reset = .next State.reset ∧
  (∀ s : State, exec .init { s with crc := 0xFFFF#16 } = .next { s with crc := 0xFFFF#16 })

/-- R55: `UPD d`. -/
def Obligations.UpdFoldsTheByteByOneTableLookup : Prop :=
  (∀ w : CommandWord, 0x200 ≤ w.toNat → w.toNat ≤ 0x2FF → decode w = .upd (BitVec.ofNat 8 (w.toNat - 0x200))) ∧
  (∀ d : Byte, (encode (.upd d)).toNat = 0x200 + d.toNat) ∧
  (∀ (d : Byte) (s : State), exec (.upd d) s =
    .next { s with crc := (s.crc >>> 8) ^^^ memRead (s.crc.extractLsb' 0 8 ^^^ d) }) ∧
  (∀ (a : Word) (b : Byte), upd a b = (a >>> 8) ^^^ memRead (a.extractLsb' 0 8 ^^^ b)) ∧
  (∀ a : Word, a >>> 8 = (a.extractLsb' 8 8).setWidth 16) ∧
  (∀ s : State, s.crc = 0xFFFF#16 → exec (.upd 0xFE#8) s = .next { s with crc := 0xC03E#16 })

/-- R70: `RD16`. -/
def Obligations.Rd16RespondsWithTheAccumulator : Prop :=
  (∀ w : CommandWord, 0x300 ≤ w.toNat → w.toNat ≤ 0x3FF → decode w = .rd16) ∧ encode .rd16 = 0x300#11 ∧
  (∀ s : State, exec .rd16 s = .next { s with responses := s.responses ++ [s.crc] }) ∧
  (∀ s : State, s.resetSeen = true →
    runEvents s (present [.init, .rd16]) =
      .next { s with crc := 0xFFFF#16, events := [], responses := s.responses ++ [0xFFFF#16] } ∧
    runEvents s (.reset :: present [.rd16]) =
      .next { crc := 0xFFFF#16, err := false, resetSeen := true, events := [], responses := s.responses ++ [0xFFFF#16] } ∧
    runEvents s (present [.rd16, .rd16]) = .next { s with events := [], responses := s.responses ++ [s.crc, s.crc] })

/-- R71: `RDLO`. -/
def Obligations.RdloRespondsWithTheLowByte : Prop :=
  (∀ w : CommandWord, 0x400 ≤ w.toNat → w.toNat ≤ 0x4FF → decode w = .rdlo) ∧ encode .rdlo = 0x400#11 ∧
  (∀ s : State, exec .rdlo s = .next { s with responses := s.responses ++ [BitVec.ofNat 16 (s.crc.toNat % 256)] }) ∧
  (∀ s : State, s.crc = 0x3598#16 → exec .rdlo s = .next { s with responses := s.responses ++ [0x0098#16] })

/-- R72: `RDHI`. -/
def Obligations.RdhiRespondsWithTheHighByte : Prop :=
  (∀ w : CommandWord, 0x500 ≤ w.toNat → w.toNat ≤ 0x5FF → decode w = .rdhi) ∧ encode .rdhi = 0x500#11 ∧
  (∀ s : State, exec .rdhi s = .next { s with responses := s.responses ++ [BitVec.ofNat 16 (s.crc.toNat / 256)] }) ∧
  (∀ s : State, exec .rdhi s = .next { s with responses := s.responses ++ [s.crc >>> 8] }) ∧
  (∀ s : State, s.crc = 0x3598#16 → exec .rdhi s = .next { s with responses := s.responses ++ [0x0035#16] })

/-- R90, R41: the reserved opcodes take the one exception, which writes `ERR` and nothing else; nothing else raises it; and
the engine goes on. -/
def Obligations.ReservedOpcodesRaiseIllegalCommand : Prop :=
  (∀ w : CommandWord, 0x600 ≤ w.toNat → decode w = .reserved6 ∨ decode w = .reserved7) ∧
  (∀ w : CommandWord, w.toNat < 0x600 → decode w ≠ .reserved6 ∧ decode w ≠ .reserved7) ∧
  (∀ s : State, exec .reserved6 s = .next { s with err := true }) ∧
  (∀ s : State, exec .reserved7 s = .next { s with err := true }) ∧
  (∀ (i : Instr) (s t : State), exec i s = .next t → t.err ≠ s.err → i = .reserved6 ∨ i = .reserved7) ∧
  (∀ (s : State) (w : CommandWord) (es : List Event), s.resetSeen = true → 0x600 ≤ w.toNat →
    runEvents s (.cmd w :: es) = runEvents { s with err := true } es) ∧
  (∀ (v : Variant) (c : ClockState) (p : Pins), accepts v c p = true → 0x600 ≤ p.cmd.toNat →
    edge v c p = { c with err := true, rsp := none })

/-- R91: every command completes, whatever the state and the operand, and only the reserved ones touch `ERR`. -/
def Obligations.EveryCommandCompletesAndLegalOnesNeverRaise : Prop :=
  (∀ (i : Instr) (s : State), ∃ t, exec i s = .next t) ∧
  (∀ (i : Instr) (s t : State), exec i s = .next t → i ≠ .reserved6 → i ≠ .reserved7 → t.err = s.err) ∧
  (∀ (i : Instr) (s t : State), exec i s = .next t → (i = .reserved6 ∨ i = .reserved7) → t.err = true)

/-- R11, R13, R29, R40, R90: the frame of every command: who may write the accumulator, the flag and the response channel. -/
def Obligations.CommandsWriteOnlyWhatTheAccessTableSays : Prop :=
  ∀ (i : Instr) (s : State), ∃ t, exec i s = .next t ∧
    (i ≠ .init → (∀ d, i ≠ .upd d) → t.crc = s.crc) ∧
    (i ≠ .reserved6 → i ≠ .reserved7 → t.err = s.err) ∧
    (i ≠ .rd16 → i ≠ .rdlo → i ≠ .rdhi → t.responses = s.responses) ∧
    ((i = .rd16 ∨ i = .rdlo ∨ i = .rdhi) → ∃ r, t.responses = s.responses ++ [r]) ∧
    t.resetSeen = s.resetSeen ∧ t.events = s.events

/-- R101: a reset after an `UPD`, finished or in progress, leaves the reset state. -/
def Obligations.ResetAbandonsAnUpdateInProgress : Prop :=
  (∀ (c : ClockState) (p : Pins), c.busy = true → p.rst = true → edge .bitSerial c p = clockReset) ∧
  (∀ (s : State) (d : Byte), s.resetSeen = true →
    runEvents s [.cmd (encode (.upd d)), .reset] = runEvents s [.reset])

/-! ### The error flag -/

/-- R13: `ERR` is sticky, only reset clears it, no command's behaviour depends on it, and the pin shows it. -/
def Obligations.ErrIsStickyAndChangesNoBehaviour : Prop :=
  (∀ (s : State) (w : CommandWord) (es : List Event), s.resetSeen = true → 0x600 ≤ w.toNat → s.events = .cmd w :: es →
    step s = .next { s with err := true, events := es }) ∧
  (∀ s t : State, step s = .next t → s.err = true → s.events.head? ≠ some .reset → t.err = true) ∧
  (∀ s t : State, step s = .next t → s.events.head? = some .reset → t.err = false) ∧
  (∀ (i : Instr) (s t : State) (b : Bool), exec i s = .next t →
    ∃ u, exec i { s with err := b } = .next u ∧ u = { t with err := u.err }) ∧
  (∀ s : State, s.errPin = s.err) ∧ State.reset.err = false

/-- R97: after any run `ERR` says whether an illegal command has been accepted since the last reset, and the accumulator and
the responses of the run are those of the same run without the flag; an illegal command under `ERR = 1` changes nothing; a fault
state is never final and stays one until a reset; a host that resets and starts again (R100, R78) ends in a final state. The
clauses on `ended` and `isFinal` are the model's reading of R97 and R114 (log entry 21), and that results count in final states
only is its choice (log entry 20). -/
def Obligations.ErrRecordsAnIllegalCommandSinceReset : Prop :=
  (∀ (s : State) (es : List Event), s.resetSeen = true →
    ∃ t, runEvents s es = .next t ∧ t.err = illegalSinceReset s.err es ∧ t.ended = true ∧
      (t.isFinal = true ↔ illegalSinceReset s.err es = false) ∧
      ∀ b : Bool, ∃ u, runEvents { s with err := b } es = .next u ∧ u.crc = t.crc ∧ u.responses = t.responses) ∧
  (∀ s : State, s.faulted = true → exec .reserved6 s = .next s ∧ exec .reserved7 s = .next s) ∧
  (∀ s t : State, s.faulted = true → s.events.head? ≠ some .reset → step s = .next t →
    t.faulted = true ∧ s.isFinal = false ∧ t.isFinal = false) ∧
  (∀ (s : State) (es : List Event) (m : List Byte), s.resetSeen = true →
    ∃ t rs, runEvents s (es ++ .reset :: present (computeSeq m)) = .next t ∧ t.isFinal = true ∧ t.crc = crcOf m ∧
      rs.length = readsIn es ∧ t.responses = s.responses ++ rs ++ [crcOf m])

/-- HD8 (R107): a host that issues no reserved word never sees `ERR` rise. That the state is final is read as log
entry 21 says. -/
def Obligations.AvoidingReservedWordsKeepsResultsTrusted : Prop :=
  ∀ (s : State) (es : List Event), s.trusted = true → avoidsReserved es = true →
    ∃ t, runEvents s es = .next t ∧ t.trusted = true ∧ t.isFinal = true ∧ errTrace es.length (s.withEvents es) = List.replicate es.length false

/-! ### Runs -/

/-- R9: a run of the machine gives the responses, the final state and the `err` trace of the spec's reference step
function, and after its last event the state holds for ever. -/
def Obligations.RunsFollowTheReferenceStepFunction : Prop :=
  ∀ (s : State) (es : List Event) (k : Nat), (s.resetSeen = true ∨ beginsWithReset es = true) →
    Host.Core.run Sys2Proof.core (es.length + k) (s.withEvents es) =
      .next { crc := (refFinal (s.crc, s.err) es).1, err := (refFinal (s.crc, s.err) es).2, resetSeen := true, events := [],
              responses := s.responses ++ refResponses (s.crc, s.err) es } ∧
    errTrace es.length (s.withEvents es) = refErrTrace (s.crc, s.err) es

/-- R30: a command sees the state left by all commands before it and by none after it. -/
def Obligations.EventsExecuteInOrder : Prop :=
  ∀ (s t : State) (es fs : List Event), runEvents s es = .next t → runEvents s (es ++ fs) = runEvents t fs

/-- R40: every read command gives exactly one response, after all earlier ones, nothing else gives any; and on the pins a
response stands for exactly the one cycle after the accepting edge. -/
def Obligations.OneResponsePerReadCommandInOrder : Prop :=
  (∀ (s : State) (e : Event) (es : List Event), s.resetSeen = true → s.events = e :: es →
    ∃ t, step s = .next t ∧
      (e.isRead = true → ∃ r, t.responses = s.responses ++ [r]) ∧ (e.isRead = false → t.responses = s.responses)) ∧
  (∀ (v : Variant) (c : ClockState) (p : Pins) (r : Word), (edge v c p).rsp = some r ↔
    accepts v c p = true ∧ ((decode p.cmd = .rd16 ∧ r = c.crc) ∨ (decode p.cmd = .rdlo ∧ r = (c.crc.extractLsb' 0 8).setWidth 16) ∨
      (decode p.cmd = .rdhi ∧ r = (c.crc.extractLsb' 8 8).setWidth 16)))

/-- R40 as an invariant of the machine: the responses delivered and the read commands still to come keep their number. -/
def Obligations.StepsKeepTheResponseAccount : Prop :=
  ∀ (k : Nat) (s t : State), ResponsesAccounted k s → step s = .next t → ResponsesAccounted k t

/-- The invariant of StepsKeepTheResponseAccount holds right after reset. It rests on the model's choice that the model's own
lists `events` and `responses` are empty in `State.reset` (log entry 16). -/
def Obligations.ResetStartsTheResponseAccount : Prop := ResponsesAccounted 0 State.reset

/-- R10: the accumulator can take every one of its 65536 values, without an illegal command, and is `0xFFFF` after reset. -/
def Obligations.EveryAccumulatorValueIsReachable : Prop :=
  State.reset.crc = 0xFFFF#16 ∧
  ∀ v : Word, ∃ es t, avoidsReserved es = true ∧ runEvents State.reset es = .next t ∧ t.crc = v ∧ t.err = false

/-! ### The table and the update -/

/-- R22: every entry of the printed table is what the generator gives; the rule's worked entries. -/
def Obligations.TableIsGeneratedByEightSteps : Prop :=
  (∀ i : Byte, memRead i = tableGen i) ∧
  (∀ i : Byte, tableGen i = shr1 (shr1 (shr1 (shr1 (shr1 (shr1 (shr1 (shr1 (i.setWidth 16))))))))) ∧
  (∀ v : Word, shr1 v = if v.getLsbD 0 = true then (v >>> 1) ^^^ 0xA001#16 else v >>> 1) ∧
  memRead 0x01#8 = 0xC0C1#16 ∧ memRead 0x80#8 = 0xA001#16 ∧ memRead 0xFF#8 = 0x4040#16

/-- R23: the integrity figures of the printed table. -/
def Obligations.TableHasTheIntegrityFigures : Prop :=
  tableEntries.length = 256 ∧ tableEntries.foldl (· ^^^ ·) 0x0000#16 = 0x0000#16 ∧
  tableEntries.foldl (fun n e => n + e.toNat) 0 = 8380544 ∧ tableEntries.Nodup ∧
  (∀ i : Byte, tableEntries[i.toNat]? = some (memRead i))

/-- R24: the laws of the table. -/
def Obligations.TableIsLinearInjectiveAndParityMarked : Prop :=
  memRead 0x00#8 = 0x0000#16 ∧
  (∀ i j : Byte, memRead (i ^^^ j) = memRead i ^^^ memRead j) ∧
  memRead 0x01#8 = 0xC0C1#16 ∧ memRead 0x02#8 = 0xC181#16 ∧ memRead 0x04#8 = 0xC301#16 ∧ memRead 0x08#8 = 0xC601#16 ∧
  memRead 0x10#8 = 0xCC01#16 ∧ memRead 0x20#8 = 0xD801#16 ∧ memRead 0x40#8 = 0xF001#16 ∧ memRead 0x80#8 = 0xA001#16 ∧
  (∀ i : Byte, memRead i =
    ((List.range 8).filter (fun k => i.getLsbD k)).foldl (fun v k => v ^^^ memRead (1#8 <<< k)) 0x0000#16) ∧
  (∀ i j : Byte, memRead i = memRead j → i = j) ∧
  (∀ i : Byte, (memRead i).getLsbD 15 = (((List.range 8).filter (fun k => i.getLsbD k)).length % 2 == 1) ∧
    (memRead i).getLsbD 0 = (((List.range 8).filter (fun k => i.getLsbD k)).length % 2 == 1))

/-- R57: the one-bit step and its laws. -/
def Obligations.OneBitStepIsLinearAndBijective : Prop :=
  (∀ v : Word, shr1 v = if v.getLsbD 0 = true then (v >>> 1) ^^^ 0xA001#16 else v >>> 1) ∧
  shr1 0x0000#16 = 0x0000#16 ∧
  (∀ u v : Word, shr1 (u ^^^ v) = shr1 u ^^^ shr1 v) ∧
  Function.Bijective shr1 ∧ (∀ v : Word, (shr1 v).getLsbD 15 = v.getLsbD 0) ∧
  (∀ v : Word, v = if (shr1 v).getLsbD 15 = true then ((shr1 v ^^^ 0xA001#16) <<< 1) + 1#16 else shr1 v <<< 1) ∧
  (∀ (v : Word) (k : Nat), 1 ≤ k → (∀ j < k, v.getLsbD j = false) →
    shr1 v = v >>> 1 ∧ ∀ j < k - 1, (shr1 v).getLsbD j = false) ∧
  shr1 0x0001#16 = 0xA001#16 ∧ shr1 0x0002#16 = 0x0001#16 ∧ shr1 0xFFFF#16 = 0xDFFE#16 ∧ shr1 0x8000#16 = 0x4000#16

/-- R59: the bit-serial form and the table form of the update agree on all inputs. -/
def Obligations.UpdateFormsAgree : Prop := ∀ (a : Word) (b : Byte), updSerial a b = upd a b

/-- R60: the laws of the update. -/
def Obligations.UpdateObeysItsAlgebra : Prop :=
  (∀ (a : Word) (b : Byte), upd a b = upd (a ^^^ b.setWidth 16) 0x00#8) ∧
  (∀ (a a' : Word) (b b' : Byte), upd (a ^^^ a') (b ^^^ b') = upd a b ^^^ upd a' b') ∧
  upd 0x0000#16 0x00#8 = 0x0000#16 ∧
  (∀ b : Byte, Function.Bijective (fun a => upd a b)) ∧
  (∀ a : Word, Function.Injective (upd a)) ∧
  (∀ a : Word, upd a (a.extractLsb' 0 8) = a >>> 8) ∧
  (∀ (a : Word) (b h : Byte), upd (a ^^^ (h.setWidth 16 <<< 8)) b = upd a b ^^^ h.setWidth 16)

/-- R56: the bytes of the new accumulator. -/
def Obligations.UpdateBytesComeFromTheTableEntry : Prop :=
  ∀ (a : Word) (b : Byte),
    (a >>> 8).extractLsb' 8 8 = 0#8 ∧
    (upd a b).extractLsb' 8 8 = (memRead (a.extractLsb' 0 8 ^^^ b)).extractLsb' 8 8 ∧
    (upd a b).extractLsb' 0 8 = a.extractLsb' 8 8 ^^^ (memRead (a.extractLsb' 0 8 ^^^ b)).extractLsb' 0 8

/-! ### Whole messages -/

/-- R78: `COMPUTE m` from any state in which commands have meaning, `ERR = 1` included ("Start state: any"). The `ResultClaim`
clause, with the premise `ERR = 0` of R97 and U2, is not R78's: its form is the model's choice (log entry 20), and what is final
is the model's reading of R97 and R114 (log entry 21). -/
def Obligations.ComputeRespondsWithTheCrcOfTheMessage : Prop :=
  (∀ a : Word, foldCrc [] a = a) ∧
  (∀ (b : Byte) (rest : List Byte) (a : Word), foldCrc (b :: rest) a = foldCrc rest (upd a b)) ∧
  (∀ m : List Byte, crcOf m = foldCrc m 0xFFFF#16) ∧
  (∀ m : List Byte, (present (computeSeq m)).length = m.length + 2) ∧
  (∀ (s : State) (m : List Byte), s.resetSeen = true →
    runEvents s (present (computeSeq m)) =
      .next { s with crc := crcOf m, events := [], responses := s.responses ++ [crcOf m] }) ∧
  (∀ (s : State) (m : List Byte), ResultClaim s (present (computeSeq m)) (fun t =>
    t.crc = crcOf m ∧ t.responses = s.responses ++ [crcOf m])) ∧
  present (computeSeq [0xFE#8, 0x05#8, 0x00#8, 0x00#8, 0xFF#8, 0x00#8]) =
    [.cmd 0x100#11, .cmd 0x2FE#11, .cmd 0x205#11, .cmd 0x200#11, .cmd 0x200#11, .cmd 0x2FF#11, .cmd 0x200#11,
     .cmd 0x300#11] ∧
  crcOf [0xFE#8, 0x05#8, 0x00#8, 0x00#8, 0xFF#8, 0x00#8] = 0x3598#16

/-- R80, R25: `APPEND m`; the frame the host builds has the CRC low byte first. The `ResultClaim` clause, with the premise
`ERR = 0` of R97, is the model's choice of form (log entry 20) and its reading of final (R97, R114; log entry 21). -/
def Obligations.AppendRespondsWithTheCrcBytesLowFirst : Prop :=
  (∀ m : List Byte, (present (appendSeq m)).length = m.length + 3) ∧
  (∀ (s : State) (m : List Byte), s.resetSeen = true →
    runEvents s (present (appendSeq m)) =
      .next { s with crc := crcOf m, events := [],
                     responses := s.responses ++ [BitVec.ofNat 16 ((crcOf m).toNat % 256),
                                                  BitVec.ofNat 16 ((crcOf m).toNat / 256)] } ∧
    frameOf m (BitVec.ofNat 16 ((crcOf m).toNat % 256)) (BitVec.ofNat 16 ((crcOf m).toNat / 256)) =
      m ++ [(crcOf m).extractLsb' 0 8] ++ [(crcOf m).extractLsb' 8 8]) ∧
  (∀ (s : State) (m : List Byte), ResultClaim s (present (appendSeq m)) (fun t =>
    ∃ rlo rhi, t.responses = s.responses ++ [rlo, rhi] ∧
      frameOf m rlo rhi = m ++ [(crcOf m).extractLsb' 0 8] ++ [(crcOf m).extractLsb' 8 8] ∧
      rlo.toNat < 256 ∧ rhi.toNat < 256)) ∧
  (∀ (address function : Byte) (payload : List Byte),
    (withCrc (coveredBytes address function payload)).length = 2 + payload.length + 2) ∧
  withCrc [0xFE#8, 0x01#8, 0x00#8, 0x00#8, 0x00#8, 0x04#8] =
    [0xFE#8, 0x01#8, 0x00#8, 0x00#8, 0x00#8, 0x04#8, 0x29#8, 0xC6#8]

/-- R82: the residue is zero exactly when the two trailing bytes are the recomputed CRC, low byte first. -/
def Obligations.ResidueIsZeroExactlyForTheCrcBytes : Prop :=
  (∀ m : List Byte, crcOf (m ++ [(crcOf m).extractLsb' 0 8] ++ [(crcOf m).extractLsb' 8 8]) = 0x0000#16) ∧
  (∀ (m : List Byte) (x y : Byte), crcOf (m ++ [x, y]) = 0x0000#16 →
    x = (crcOf m).extractLsb' 0 8 ∧ y = (crcOf m).extractLsb' 8 8) ∧
  (∀ (m : List Byte), crcOf (m ++ [(crcOf m).extractLsb' 8 8, (crcOf m).extractLsb' 0 8]) = 0x0000#16 →
    (crcOf m).extractLsb' 0 8 = (crcOf m).extractLsb' 8 8) ∧
  crcOf [0xFE#8, 0x01#8, 0x01#8, 0x0F#8] = 0x9821#16 ∧ crcOf [0xFE#8, 0x01#8, 0x01#8, 0x0F#8, 0x21#8] = 0x0098#16 ∧
  crcOf [0xFE#8, 0x01#8, 0x01#8, 0x0F#8, 0x21#8, 0x98#8] = 0x0000#16 ∧
  crcOf [0xFE#8, 0x01#8, 0x01#8, 0x0F#8, 0x98#8, 0x21#8] = 0x22B2#16

/-- R83: on the machine, the compare form and the residue form of a check give the same verdict, which is that the stored
bytes are the CRC; a mismatch sets no flag (R93). The two `ResultClaim` clauses, with the premise `ERR = 0` of R97, are the
model's choice of form (log entry 20) and its reading of final (R97, R114; log entry 21). -/
def Obligations.CompareFormAndResidueFormAgree : Prop :=
  crcOf [0xFE#8, 0x01#8, 0x01#8, 0x0F#8, 0x21#8, 0x98#8] = 0x0000#16 ∧
  crcOf [0xFE#8, 0x01#8, 0x01#8, 0x0E#8, 0x21#8, 0x98#8] = 0xC051#16 ∧
  (∀ (s : State) (m : List Byte) (x y : Byte),
    ResultClaim s (present (appendSeq m)) (fun t => ∃ rlo rhi, t.responses = s.responses ++ [rlo, rhi] ∧
      (compareVerdict rlo rhi x y = true ↔ x = (crcOf m).extractLsb' 0 8 ∧ y = (crcOf m).extractLsb' 8 8)) ∧
    ResultClaim s (present (checkSeq (m ++ [x, y]))) (fun u => ∃ r, u.responses = s.responses ++ [r] ∧
      (residueVerdict r = true ↔ x = (crcOf m).extractLsb' 0 8 ∧ y = (crcOf m).extractLsb' 8 8))) ∧
  ∀ (s : State) (m : List Byte) (x y : Byte), s.resetSeen = true →
    (present (checkSeq (m ++ [x, y]))).length = m.length + 4 ∧
    ∃ (t u : State) (rlo rhi r : Word),
      runEvents s (present (appendSeq m)) = .next t ∧ t.responses = s.responses ++ [rlo, rhi] ∧ t.err = s.err ∧
      runEvents s (present (checkSeq (m ++ [x, y]))) = .next u ∧ u.responses = s.responses ++ [r] ∧ u.err = s.err ∧
      compareVerdict rlo rhi x y = residueVerdict r ∧
      (residueVerdict r = true ↔ r = 0x0000#16) ∧
      (compareVerdict rlo rhi x y = true ↔ x = (crcOf m).extractLsb' 0 8 ∧ y = (crcOf m).extractLsb' 8 8)

/-- R88: the frame built from the responses of `APPEND` passes `CHECK`, for every message. The nested `ResultClaim` clause, with
the premise `ERR = 0` of R97, is the model's choice of form (log entry 20) and its reading of final (R97, R114; log entry 21). -/
def Obligations.AppendedFramePassesCheck : Prop :=
  (∀ (s : State) (m : List Byte), s.resetSeen = true →
    ∃ (t u : State) (rlo rhi r : Word),
      runEvents s (present (appendSeq m)) = .next t ∧ t.responses = s.responses ++ [rlo, rhi] ∧
      runEvents t (present (checkSeq (frameOf m rlo rhi))) = .next u ∧ u.responses = t.responses ++ [r] ∧
      residueVerdict r = true) ∧
  (∀ (s : State) (m : List Byte), ResultClaim s (present (appendSeq m)) (fun t =>
    ∃ rlo rhi, t.responses = s.responses ++ [rlo, rhi] ∧
      ResultClaim t (present (checkSeq (frameOf m rlo rhi))) (fun u =>
        ∃ r, u.responses = t.responses ++ [r] ∧ residueVerdict r = true)))

/-- R84: feeding two bytes is XORing them, as a little-endian word, into the accumulator and sixteen one-bit steps. -/
def Obligations.TwoBytesAreSixteenSteps : Prop :=
  (∀ (a : Word) (x y : Byte),
    upd (upd a x) y = shrSteps 16 (a ^^^ (x.setWidth 16 ^^^ (y.setWidth 16 <<< 8)))) ∧
  Function.Bijective (shrSteps 16) ∧ shrSteps 16 0x0000#16 = 0x0000#16

/-- R85: a change of one byte changes the CRC, and `CHECK` detects it. -/
def Obligations.SingleByteChangeIsDetected : Prop :=
  ∀ (p q : List Byte) (b c : Byte), b ≠ c →
    crcOf (p ++ b :: q) ≠ crcOf (p ++ c :: q) ∧
    crcOf (p ++ c :: q ++ [(crcOf (p ++ b :: q)).extractLsb' 0 8, (crcOf (p ++ b :: q)).extractLsb' 8 8]) ≠ 0x0000#16

/-- R87: the difference of two CRCs depends only on the difference of the messages. -/
def Obligations.CrcDifferenceDependsOnMessageDifference : Prop :=
  (∀ m m' : List Byte, m.length = m'.length →
    crcOf m ^^^ crcOf m' = foldCrc (List.zipWith (· ^^^ ·) m m') 0x0000#16) ∧
  (∀ n : Nat, foldCrc (List.replicate n 0x00#8) 0x0000#16 = 0x0000#16)

/-- R86: without `INIT` the second message is chained onto the first. The `ResultClaim` clause, with the premise `ERR = 0` of
R97, is the model's choice of form (log entry 20) and its reading of final (R97, R114; log entry 21). -/
def Obligations.MessagesChainWithoutInit : Prop :=
  (∀ (s : State) (m m' : List Byte), s.resetSeen = true →
    runEvents s (present (computeSeq m) ++ present (m'.map .upd ++ [.rd16])) =
      .next { s with crc := crcOf (m ++ m'), events := [], responses := s.responses ++ [crcOf m, crcOf (m ++ m')] }) ∧
  (∀ (s : State) (m m' : List Byte),
    ResultClaim s (present (computeSeq m) ++ present (m'.map .upd ++ [.rd16])) (fun t =>
      t.crc = crcOf (m ++ m') ∧ t.responses = s.responses ++ [crcOf m, crcOf (m ++ m')])) ∧
  crcOf ([0xFE#8, 0x05#8, 0x00#8, 0x00#8, 0xFF#8, 0x00#8] ++ [0xFE#8, 0x01#8, 0x00#8, 0x00#8, 0x00#8, 0x04#8]) = 0xC1B9#16 ∧
  crcOf [0xFE#8, 0x01#8, 0x00#8, 0x00#8, 0x00#8, 0x04#8] = 0xC629#16

/-- R52: after `INIT` and the bytes of a message the accumulator is the CRC of the message, whatever it was before. The
`ResultClaim` clause, with the premise `ERR = 0` of R97, is the model's choice of form (log entry 20) and its reading of final
(R97, R114; log entry 21). -/
def Obligations.InitMakesComputationsIndependent : Prop :=
  (∀ (s : State) (m : List Byte), s.resetSeen = true →
    runEvents s (present (.init :: m.map .upd)) = .next { s with crc := crcOf m, events := [] }) ∧
  (∀ (s : State) (m : List Byte), ResultClaim s (present (.init :: m.map .upd)) (fun t => t.crc = crcOf m))

/-- R79 (e), R86, R52, R90, R100 over every run: the accumulator is the CRC of the bytes fed since the last `INIT` or reset,
whatever `NOP`, read and reserved words stand between them. The `ResultClaim` clause, with the premise `ERR = 0` of R97, is the
model's choice of form (log entry 20) and its reading of final (R97, R114; log entry 21). -/
def Obligations.AccumulatorIsTheCrcOfTheOpenMessage : Prop :=
  (∀ (s : State) (m : List Byte) (es : List Event), s.resetSeen = true → s.crc = crcOf m →
    ∃ t, runEvents s es = .next t ∧ t.crc = crcOf (openMessage m es)) ∧
  (∀ (s : State) (m : List Byte) (es : List Event), s.crc = crcOf m → avoidsReserved es = true →
    ResultClaim s es (fun t => t.crc = crcOf (openMessage m es)))

/-- R73, HD4: `RDLO` and `RDHI` with no `UPD`, `INIT` or reset between them respond with the two bytes of the one value that
`RD16` responds with; the responses `rs` and `rs'` are those of the reads among the events between. The `ResultClaim` clause, with
the premise `ERR = 0` of R97, is the model's choice of form (log entry 20) and its reading of final (R97, R114; log entry 21). -/
def Obligations.ByteReadsAgreeWithTheWordRead : Prop :=
  (∀ (s : State) (es fs : List Event), s.resetSeen = true → es.all Event.keepsCrc = true → fs.all Event.keepsCrc = true →
    ∃ (t : State) (lo hi : Word) (rs rs' : List Word),
      runEvents s (present [.rdlo] ++ es ++ present [.rdhi] ++ fs ++ present [.rd16]) = .next t ∧
      t.responses = s.responses ++ [lo] ++ rs ++ [hi] ++ rs' ++ [s.crc] ∧
      rs.length = readsIn es ∧ rs'.length = readsIn fs ∧
      lo = (s.crc.extractLsb' 0 8).setWidth 16 ∧ hi = (s.crc.extractLsb' 8 8).setWidth 16 ∧
      s.crc = (hi <<< 8) + lo ∧ s.crc.toNat = hi.toNat * 256 + lo.toNat) ∧
  (∀ (s : State) (es fs : List Event), es.all Event.keepsCrc = true → fs.all Event.keepsCrc = true →
    avoidsReserved (es ++ fs) = true →
    ResultClaim s (present [.rdlo] ++ es ++ present [.rdhi] ++ fs ++ present [.rd16]) (fun t => ∃ rs rs' : List Word,
      rs.length = readsIn es ∧ rs'.length = readsIn fs ∧
      t.responses = s.responses ++ [(s.crc.extractLsb' 0 8).setWidth 16] ++ rs ++ [(s.crc.extractLsb' 8 8).setWidth 16] ++
        rs' ++ [s.crc]))

/-! ### The clocked engine -/

/-- R7, R17, R37, R58, R59, R106: every clocked run, of either variant, with any pins at every edge, is the run of the
command-level machine over the events it accepted, with the same responses. -/
def Obligations.ClockedEngineRefinesTheCommandLevel : Prop :=
  ∀ (v : Variant) (c : ClockState) (ps : List Pins) (fs : List Event) (rs : List Word), Consistent v c = true →
    Host.Core.run Sys2Proof.core (acceptedEvents v c ps).length (commandView c (acceptedEvents v c ps ++ fs) rs) =
      .next (commandView (runEdges v c ps) fs (rs ++ seenResponses v c ps))

/-- R17: from the first reset on, every edge keeps the hidden state consistent, and no response shows an intermediate
value. -/
def Obligations.EdgesKeepTheHiddenStateConsistent : Prop :=
  (∀ (v : Variant) (c : ClockState) (p : Pins), p.rst = true → Consistent v (edge v c p) = true) ∧
  (∀ (v : Variant) (c : ClockState) (p : Pins), Consistent v c = true → Consistent v (edge v c p) = true) ∧
  (∀ (c : ClockState) (p : Pins), c.busy = true →
    accepts .bitSerial c p = false ∧ (edge .bitSerial c p).rsp = none) ∧
  (∀ c : ClockState, Consistent .table c = true → c.busy = false ∧ c.bitcnt = 0#4)

/-- R37: when a word is accepted, and that a word that is not accepted has no effect. -/
def Obligations.OnlyAcceptedWordsHaveAnEffect : Prop :=
  (∀ (v : Variant) (c : ClockState) (p : Pins),
    accepts v c p = true ↔ p.rst = false ∧ p.cmdValid = true ∧ cmdReady v c = true) ∧
  (∀ (v : Variant) (c : ClockState) (p : Pins), accepts v c p = true →
    acceptedEvents v c [p] = [.cmd p.cmd] ∧ edge v c p = acceptEdge v c p.cmd) ∧
  (∀ (v : Variant) (c : ClockState) (p : Pins) (valid : Bool) (w : CommandWord), accepts v c p = false →
    accepts v c { rst := p.rst, cmdValid := valid, cmd := w } = false →
    edge v c { rst := p.rst, cmdValid := valid, cmd := w } = edge v c p) ∧
  (∀ (v : Variant) (c : ClockState) (p : Pins), accepts v c p = false → p.rst = false → acceptedEvents v c [p] = []) ∧
  (∀ c : ClockState, cmdReady .table c = true ∧ cmdReady .bitSerial c = !c.busy)

/-- R94: reset first; else the one accepted command executes, and raises its one exception by its opcode alone; else an update
in progress makes a shift or the state holds. -/
def Obligations.ResetHasPriorityAtAnEdge : Prop :=
  ∀ (v : Variant) (c : ClockState) (p : Pins),
    (acceptedEvents v c [p]).length ≤ 1 ∧
    (p.rst = true → edge v c p = clockReset ∧ acceptedEvents v c [p] = [.reset] ∧ accepts v c p = false) ∧
    (p.rst = false → accepts v c p = true →
      acceptedEvents v c [p] = [.cmd p.cmd] ∧ edge v c p = acceptEdge v c p.cmd ∧
      (edge v c p).err = (c.err || decide (0x600 ≤ p.cmd.toNat))) ∧
    (p.rst = false → accepts v c p = false →
      acceptedEvents v c [p] = [] ∧ edge v c p = if cmdReady v c then { c with rsp := none } else shiftEdge c)

/-- R92: with nothing accepted, no reset and no update in progress the registers hold, at both levels. -/
def Obligations.NothingHappensWithoutACommandOrReset : Prop :=
  (∀ (v : Variant) (c : ClockState) (p : Pins), p.rst = false → p.cmdValid = false → cmdReady v c = true →
    edge v c p = { c with rsp := none }) ∧
  (∀ (s : State) (k : Nat), s.events = [] → Host.Core.run Sys2Proof.core k s = .next s)

/-- R58: the bit-serial update on the pins: the XOR at the accepting edge, eight shift edges with `cmd_ready = 0`, and the
value of `upd_serial` at the end. -/
def Obligations.BitSerialUpdateTakesEightShiftEdges : Prop :=
  (∀ (a : Word) (b : Byte), updSerial a b =
    shr1 (shr1 (shr1 (shr1 (shr1 (shr1 (shr1 (shr1 (a ^^^ b.setWidth 16))))))))) ∧
  (∀ (c : ClockState) (p : Pins) (d : Byte) (ps : List Pins),
    accepts .bitSerial c p = true → decode p.cmd = .upd d → ps.length = 8 → (∀ q ∈ ps, q.rst = false) →
    edge .bitSerial c p = { c with crc := c.crc ^^^ d.setWidth 16, bitcnt := 8#4, busy := true, rsp := none } ∧
    (∀ k ≤ 8, runEdges .bitSerial c (p :: ps.take k) =
        { c with crc := shrSteps k (c.crc ^^^ d.setWidth 16), bitcnt := BitVec.ofNat 4 (8 - k), busy := decide (k < 8),
                 rsp := none } ∧
      cmdReady .bitSerial (runEdges .bitSerial c (p :: ps.take k)) = decide (k = 8)) ∧
    runEdges .bitSerial c (p :: ps) = { c with crc := updSerial c.crc d, bitcnt := 0#4, busy := false, rsp := none } ∧
    acceptedEvents .bitSerial c (p :: ps) = [.cmd p.cmd]) ∧
  updSerial 0xFFFF#16 0xFE#8 = 0xC03E#16

/-- R113: within eight edges, whatever the host does, the engine is ready again. -/
def Obligations.EngineIsReadyWithinEightEdges : Prop :=
  ∀ (v : Variant) (c : ClockState) (ps : List Pins), Consistent v c = true → ps.length = 8 →
    ∃ k ≤ 8, cmdReady v (runEdges v c (ps.take k)) = true

/-- R112, last row of its table: the least number of edges of a message, and that it can be met. Timing only: no statement
about values rests on it. -/
def Obligations.MessageTakesTheSpecifiedEdges : Prop :=
  (∀ (c : ClockState) (m : List Byte) (ps : List Pins), Consistent .table c = true →
    acceptedEvents .table c ps = present (computeSeq m) → m.length + 2 ≤ ps.length) ∧
  (∀ (c : ClockState) (m : List Byte) (ps : List Pins), Consistent .bitSerial c = true →
    acceptedEvents .bitSerial c ps = present (computeSeq m) → 9 * m.length + 2 ≤ ps.length) ∧
  (∀ m : List Byte, ∃ ps, ps.length = m.length + 2 ∧
    acceptedEvents .table clockReset ps = present (computeSeq m) ∧ seenResponses .table clockReset ps = [crcOf m]) ∧
  (∀ m : List Byte, ∃ ps, ps.length = 9 * m.length + 2 ∧
    acceptedEvents .bitSerial clockReset ps = present (computeSeq m) ∧ seenResponses .bitSerial clockReset ps = [crcOf m])

/-! ### The textual form -/

/-- R44: the words of the textual form, the comment rule, and that the text of a line stands for that line. What R44 leaves
open of the text is the model's choice (log entry 13). -/
def Obligations.AssemblerTextStandsForItsWords : Prop :=
  AsmLine.nop.events = [.cmd 0x000#11] ∧ AsmLine.init.events = [.cmd 0x100#11] ∧
  (∀ d : Byte, (AsmLine.upd d).events = [.cmd (0x200#11 + d.setWidth 11)]) ∧
  AsmLine.rd16.events = [.cmd 0x300#11] ∧ AsmLine.rdlo.events = [.cmd 0x400#11] ∧ AsmLine.rdhi.events = [.cmd 0x500#11] ∧
  (∀ w : CommandWord, (AsmLine.word w).events = [.cmd w]) ∧ AsmLine.reset.events = [.reset] ∧
  (∀ cs comment : List Char, ';' ∉ cs → parseLine (cs ++ ';' :: comment) = parseLine cs) ∧
  (∀ l : AsmLine, parseLine (printLine l) = .ok (some l)) ∧
  (∀ ls : List AsmLine, assemble (List.intercalate ['\n'] (ls.map printLine)) = .ok (ls.flatMap AsmLine.events))

/-- R45: the pseudo-instructions stand for their sequences of real commands. -/
def Obligations.PseudoInstructionsExpand : Prop :=
  (∀ m : List Byte, (AsmLine.compute m).events =
    .cmd 0x100#11 :: (m.map (fun b => Event.cmd (0x200#11 + b.setWidth 11)) ++ [.cmd 0x300#11])) ∧
  (∀ m : List Byte, (AsmLine.append m).events =
    .cmd 0x100#11 :: (m.map (fun b => Event.cmd (0x200#11 + b.setWidth 11)) ++ [.cmd 0x400#11, .cmd 0x500#11])) ∧
  (∀ (m : List Byte) (lo hi : Byte), (AsmLine.check m lo hi).events =
    .cmd 0x100#11 :: ((m ++ [lo, hi]).map (fun b => Event.cmd (0x200#11 + b.setWidth 11)) ++ [.cmd 0x300#11]))

/-! ### Claims about results -/

/-- R97, U2, R9: the claim about the results of a run in the form R97 asks for, over all runs. With the premise `ERR = 0` and no
reserved word the run ends in a final state with the accumulator and the responses of the reference step function; with a
reserved word and no reset after it, the run, however it goes on without a reset, never ends in a final state. The form of
the claim is the model's choice (log entry 20), and what is final is its reading of R97 and R114 (log entry 21). -/
def Obligations.ResultsAreClaimedOnlyUnderErrZero : Prop :=
  (∀ (s : State) (es : List Event), avoidsReserved es = true →
    ResultClaim s es (fun t => t.crc = (refFinal (s.crc, false) es).1 ∧
      t.responses = s.responses ++ refResponses (s.crc, false) es ∧ t.err = false)) ∧
  (∀ (s t : State) (w : CommandWord) (es fs : List Event), 0x600 ≤ w.toNat → .reset ∉ fs →
    runEvents s (es ++ .cmd w :: fs) = .next t → t.ended = true ∧ t.faulted = true ∧ t.isFinal = false)
end

