-- ==== Sys2Proof/Laws/State.lean ====
section
/-! SUPPORT. One lemma per field per update of the state, each true by rfl, so that no proof unfolds a record update. -/

namespace Sys2Proof.Machine

@[simp] theorem State.setCrc_crc (s : State) (v : Word) : (s.setCrc v).crc = v := rfl
@[simp] theorem State.setCrc_err (s : State) (v : Word) : (s.setCrc v).err = s.err := rfl
@[simp] theorem State.setCrc_resetSeen (s : State) (v : Word) : (s.setCrc v).resetSeen = s.resetSeen := rfl
@[simp] theorem State.setCrc_events (s : State) (v : Word) : (s.setCrc v).events = s.events := rfl
@[simp] theorem State.setCrc_responses (s : State) (v : Word) : (s.setCrc v).responses = s.responses := rfl

@[simp] theorem State.setErr_crc (s : State) : (s.setErr).crc = s.crc := rfl
@[simp] theorem State.setErr_err (s : State) : (s.setErr).err = true := rfl
@[simp] theorem State.setErr_resetSeen (s : State) : (s.setErr).resetSeen = s.resetSeen := rfl
@[simp] theorem State.setErr_events (s : State) : (s.setErr).events = s.events := rfl
@[simp] theorem State.setErr_responses (s : State) : (s.setErr).responses = s.responses := rfl

@[simp] theorem State.clearErr_crc (s : State) : (s.clearErr).crc = s.crc := rfl
@[simp] theorem State.clearErr_err (s : State) : (s.clearErr).err = false := rfl
@[simp] theorem State.clearErr_resetSeen (s : State) : (s.clearErr).resetSeen = s.resetSeen := rfl
@[simp] theorem State.clearErr_events (s : State) : (s.clearErr).events = s.events := rfl
@[simp] theorem State.clearErr_responses (s : State) : (s.clearErr).responses = s.responses := rfl

@[simp] theorem State.respond_crc (s : State) (v : Word) : (s.respond v).crc = s.crc := rfl
@[simp] theorem State.respond_err (s : State) (v : Word) : (s.respond v).err = s.err := rfl
@[simp] theorem State.respond_resetSeen (s : State) (v : Word) : (s.respond v).resetSeen = s.resetSeen := rfl
@[simp] theorem State.respond_events (s : State) (v : Word) : (s.respond v).events = s.events := rfl
@[simp] theorem State.respond_responses (s : State) (v : Word) : (s.respond v).responses = s.responses ++ [v] := rfl

@[simp] theorem State.markReset_crc (s : State) : (s.markReset).crc = s.crc := rfl
@[simp] theorem State.markReset_err (s : State) : (s.markReset).err = s.err := rfl
@[simp] theorem State.markReset_resetSeen (s : State) : (s.markReset).resetSeen = true := rfl
@[simp] theorem State.markReset_events (s : State) : (s.markReset).events = s.events := rfl
@[simp] theorem State.markReset_responses (s : State) : (s.markReset).responses = s.responses := rfl

@[simp] theorem State.setEvents_crc (s : State) (es : List Event) : (s.setEvents es).crc = s.crc := rfl
@[simp] theorem State.setEvents_err (s : State) (es : List Event) : (s.setEvents es).err = s.err := rfl
@[simp] theorem State.setEvents_resetSeen (s : State) (es : List Event) : (s.setEvents es).resetSeen = s.resetSeen := rfl
@[simp] theorem State.setEvents_events (s : State) (es : List Event) : (s.setEvents es).events = es := rfl
@[simp] theorem State.setEvents_responses (s : State) (es : List Event) : (s.setEvents es).responses = s.responses := rfl

@[simp] theorem State.setEvents_setEvents (s : State) (es fs : List Event) :
    (s.setEvents es).setEvents fs = s.setEvents fs := rfl

@[simp] theorem takeReset_crc (s : State) : (takeReset s).crc = 0xFFFF#16 := rfl
@[simp] theorem takeReset_err (s : State) : (takeReset s).err = false := rfl
@[simp] theorem takeReset_resetSeen (s : State) : (takeReset s).resetSeen = true := rfl
@[simp] theorem takeReset_events (s : State) : (takeReset s).events = s.events := rfl
@[simp] theorem takeReset_responses (s : State) : (takeReset s).responses = s.responses := rfl

@[simp] theorem raiseIllegalCommand_crc (s : State) : (raiseIllegalCommand s).crc = s.crc := rfl
@[simp] theorem raiseIllegalCommand_err (s : State) : (raiseIllegalCommand s).err = true := rfl
@[simp] theorem raiseIllegalCommand_resetSeen (s : State) : (raiseIllegalCommand s).resetSeen = s.resetSeen := rfl
@[simp] theorem raiseIllegalCommand_events (s : State) : (raiseIllegalCommand s).events = s.events := rfl
@[simp] theorem raiseIllegalCommand_responses (s : State) : (raiseIllegalCommand s).responses = s.responses := rfl

@[simp] theorem presentNext_crc (s : State) (w : CommandWord) : (presentNext s w).crc = s.crc := rfl
@[simp] theorem presentNext_err (s : State) (w : CommandWord) : (presentNext s w).err = s.err := rfl
@[simp] theorem presentNext_resetSeen (s : State) (w : CommandWord) : (presentNext s w).resetSeen = true := rfl
@[simp] theorem presentNext_events (s : State) (w : CommandWord) : (presentNext s w).events = .cmd w :: s.events := rfl
@[simp] theorem presentNext_responses (s : State) (w : CommandWord) : (presentNext s w).responses = s.responses := rfl

@[simp] theorem State.withEvents_crc (s : State) (es : List Event) : (s.withEvents es).crc = s.crc := rfl
@[simp] theorem State.withEvents_err (s : State) (es : List Event) : (s.withEvents es).err = s.err := rfl
@[simp] theorem State.withEvents_resetSeen (s : State) (es : List Event) : (s.withEvents es).resetSeen = s.resetSeen := rfl
@[simp] theorem State.withEvents_events (s : State) (es : List Event) : (s.withEvents es).events = es := rfl
@[simp] theorem State.withEvents_responses (s : State) (es : List Event) : (s.withEvents es).responses = s.responses := rfl

/-- The pin shows the flag (R13). -/
@[simp] theorem State.errPin_eq (s : State) : s.errPin = s.err := rfl

end Sys2Proof.Machine
end

