-- ==== Sys2Proof/Laws/Ops.lean ====
section
/-! SUPPORT. What each shared operation can do, said once. -/

namespace Sys2Proof.Machine

/-- The state a command leaves: what `exec` answers, as one function. -/
def commandEffect : Instr → State → State
  | .nop, s => s
  | .init, s => s.setCrc initValue
  | .upd d, s => s.setCrc (upd s.crc d)
  | .rd16, s => s.respond s.crc
  | .rdlo, s => s.respond (zext16 (lowByte s.crc))
  | .rdhi, s => s.respond (zext16 (highByte s.crc))
  | .reserved6, s => raiseIllegalCommand s
  | .reserved7, s => raiseIllegalCommand s

/-- `exec` is the function `commandEffect`: no command stops. -/
theorem exec_eq_next_commandEffect (i : Instr) (s : State) : exec i s = .next (commandEffect i s) := by
  cases i <;> rfl

/-- No command touches the host's remaining events. -/
@[simp] theorem commandEffect_events (i : Instr) (s : State) : (commandEffect i s).events = s.events := by
  cases i <;> rfl

/-- No command touches the record of the reset. -/
@[simp] theorem commandEffect_resetSeen (i : Instr) (s : State) : (commandEffect i s).resetSeen = s.resetSeen := by
  cases i <;> rfl

/-- A command's effect does not depend on the events still to come. -/
theorem commandEffect_setEvents (i : Instr) (s : State) (es : List Event) :
    commandEffect i (s.setEvents es) = (commandEffect i s).setEvents es := by
  cases i <;> rfl

/-- With no event there is none to take. -/
theorem nextEvent_none {s : State} (h : s.events = []) : nextEvent s = none := by simp [nextEvent, h]

/-- The next event is the first of the list, and the rest stays. -/
theorem nextEvent_some {s : State} {e : Event} {es : List Event} (h : s.events = e :: es) :
    nextEvent s = some (e, s.setEvents es) := by simp [nextEvent, h]

/-- `respond` keeps what was delivered before. -/
theorem respond_keeps_earlier (s : State) (v : Word) : s.responses <+: (s.respond v).responses :=
  List.prefix_append _ _

/-- The exception writes the flag and nothing else (R90). -/
theorem raiseIllegalCommand_eq (s : State) : raiseIllegalCommand s = { s with err := true } := rfl

/-- Reset, field by field (R100). -/
theorem takeReset_eq (s : State) :
    takeReset s = { crc := initValue, err := false, resetSeen := true, events := s.events, responses := s.responses } := rfl

/-- `n + m` one-bit steps are `n`, then `m`. -/
theorem shrSteps_add (n m : Nat) (v : Word) : shrSteps (n + m) v = shrSteps m (shrSteps n v) := by
  induction n generalizing v with
  | zero => simp [shrSteps]
  | succ n ih => rw [Nat.succ_add]; exact ih (shr1 v)

end Sys2Proof.Machine
end

