-- ==== Sys2Proof/Laws/PerInstr.lean ====
section
/-! SUPPORT. Statements for all instructions, made per instruction. -/

namespace Sys2Proof.Laws.TableRow

/-- The instruction is well formed, its word is canonical, and the word selects the instruction's own row of the opcode map
(spec/30_encoding.md R38, R39). -/
def Statement (i : Instr) : Prop :=
  i.wellFormed = true ∧ isCanonical (encode i) = true ∧ encode i &&& opcodeMask = matchWord i

theorem nop : Statement .nop := by unfold Statement; decide

theorem init : Statement .init := by unfold Statement; decide

theorem upd : ∀ d : Byte, Statement (.upd d) := by unfold Statement; decide

theorem rd16 : Statement .rd16 := by unfold Statement; decide

theorem rdlo : Statement .rdlo := by unfold Statement; decide

theorem rdhi : Statement .rdhi := by unfold Statement; decide

theorem reserved6 : Statement .reserved6 := by unfold Statement; decide

theorem reserved7 : Statement .reserved7 := by unfold Statement; decide

end Sys2Proof.Laws.TableRow
end

