-- ==== Sys2Proof/Laws/Step.lean ====
section
/-! SUPPORT. What a step can do, said once, and the shape of runs. -/

namespace Sys2Proof.Machine

/-- A step of an idle machine. -/
theorem step_idle {s : State} (h : s.events = []) : step s = .next s := by simp [step, nextEvent_none h, idle]

/-- A step that takes a reset. -/
theorem step_reset {s : State} {es : List Event} (h : s.events = .reset :: es) :
    step s = .next (takeReset (s.setEvents es)) := by simp [step, nextEvent_some h]

/-- A step that takes a command word, after the first reset. -/
theorem step_command {s : State} {w : CommandWord} {es : List Event} (h : s.events = .cmd w :: es)
    (hr : s.resetSeen = true) : step s = .next (commandEffect (decode w) (s.setEvents es)) := by
  simp [step, nextEvent_some h, commandsHaveMeaning, hr, exec_eq_next_commandEffect]

/-- A step that takes a command word before the first reset. -/
theorem step_early_command {s : State} {w : CommandWord} {es : List Event} (h : s.events = .cmd w :: es)
    (hr : s.resetSeen = false) : step s = .refused .commandBeforeFirstReset := by
  simp [step, nextEvent_some h, commandsHaveMeaning, hr]

/-- Everything a step that answers a next state can have done, its guards included. -/
theorem step_next_cases {s t : State} (h : step s = .next t) :
    (s.events = [] ∧ t = s) ∨
    (∃ es, s.events = .reset :: es ∧ t = takeReset (s.setEvents es)) ∨
    (∃ w es, s.events = .cmd w :: es ∧ s.resetSeen = true ∧ t = commandEffect (decode w) (s.setEvents es)) := by
  match he : s.events with
  | [] => rw [step_idle he] at h; exact .inl ⟨rfl, by cases h; rfl⟩
  | .reset :: es => rw [step_reset he] at h; exact .inr (.inl ⟨es, rfl, by cases h; rfl⟩)
  | .cmd w :: es =>
    cases hr : s.resetSeen with
    | false => rw [step_early_command he hr] at h; cases h
    | true => rw [step_command he hr] at h; exact .inr (.inr ⟨w, es, rfl, rfl, by cases h; rfl⟩)

/-- The machine's run, over its own types, is the host's. -/
theorem core_run_eq_runSteps (k : Nat) (s : State) : Host.Core.run Sys2Proof.core k s = runSteps k s := by
  induction k generalizing s with
  | zero => rfl
  | succ k ih =>
    match h : step s with
    | .next t =>
      have h' : Sys2Proof.core.step s = .next t := h
      simp only [Host.Core.run, h', runSteps, h]
      exact ih t
    | .fault f => exact nomatch f
    | .refused r =>
      have h' : Sys2Proof.core.step s = .refused r := h
      simp only [Host.Core.run, h', runSteps, h]
      rfl

/-- One step of a run. -/
theorem runSteps_succ {s t : State} (h : step s = .next t) (k : Nat) : runSteps (k + 1) s = runSteps k t := by
  simp [runSteps, h]

/-- A run over no events. -/
theorem runEvents_nil (s : State) : runEvents s [] = .next (s.withEvents []) := rfl

/-- A run that begins with a reset goes on from the reset state. -/
theorem runEvents_reset (s : State) (es : List Event) :
    runEvents s (.reset :: es) = runEvents (takeReset s) es :=
  runSteps_succ (step_reset rfl) es.length

/-- A run that begins with a command goes on from the command's effect. -/
theorem runEvents_command {s : State} (hr : s.resetSeen = true) (w : CommandWord) (es : List Event) :
    runEvents s (.cmd w :: es) = runEvents (commandEffect (decode w) s) es := by
  have h : step (s.withEvents (.cmd w :: es)) = .next ((commandEffect (decode w) s).withEvents es) := by
    rw [step_command (s := s.withEvents (.cmd w :: es)) (w := w) (es := es) rfl hr, State.withEvents, State.withEvents, State.setEvents_setEvents, commandEffect_setEvents]
  exact runSteps_succ h es.length

/-- A run that begins with a command before the first reset is refused (R102). -/
theorem runEvents_early_command {s : State} (hr : s.resetSeen = false) (w : CommandWord) (es : List Event) :
    runEvents s (.cmd w :: es) = .refused .commandBeforeFirstReset := by
  have h : step (s.withEvents (.cmd w :: es)) = .refused .commandBeforeFirstReset := step_early_command rfl hr
  simp [runEvents, runSteps, h]

end Sys2Proof.Machine
end

