-- ==== Sys2Proof/Laws/Safety.lean ====
section
/-! SUPPORT. What the predicates of Safety.lean say of a state and how a claim about results is proved and used. -/

namespace Sys2Proof.Machine

theorem State.trusted_iff (s : State) : s.trusted = true ↔ s.resetSeen = true ∧ s.err = false := by simp [State.trusted]

theorem State.isFinal_iff (s : State) :
    s.isFinal = true ↔ s.events = [] ∧ s.resetSeen = true ∧ s.err = false := by
  simp [State.isFinal, State.ended, State.trusted]

/-- R97: a fault state is never final. -/
theorem State.faulted_not_isFinal {s : State} (h : s.faulted = true) : s.isFinal = false := by
  have h' : s.err = true := h
  simp [State.isFinal, State.trusted, h']

@[simp] theorem State.withEvents_trusted (s : State) (es : List Event) : (s.withEvents es).trusted = s.trusted := rfl
@[simp] theorem State.setCrc_trusted (s : State) (v : Word) : (s.setCrc v).trusted = s.trusted := rfl
@[simp] theorem State.respond_trusted (s : State) (v : Word) : (s.respond v).trusted = s.trusted := rfl
@[simp] theorem takeReset_trusted (s : State) : (takeReset s).trusted = true := rfl
@[simp] theorem raiseIllegalCommand_trusted (s : State) : (raiseIllegalCommand s).trusted = false := by simp [State.trusted]

/-- An ended run is final exactly when its state is trusted. -/
@[simp] theorem State.withEvents_nil_isFinal (s : State) : (s.withEvents []).isFinal = s.trusted := by
  simp [State.isFinal, State.ended]

/-- How a claim about results is proved: from the run, and from what the run says of a trusted state. -/
theorem ResultClaim.of_run {s t : State} {es : List Event} {Q : State → Prop} (h : runEvents s es = .next t)
    (hf : s.trusted = true → t.isFinal = true) (hq : s.trusted = true → Q t) : ResultClaim s es Q :=
  fun hs => ⟨t, h, hf hs, hq hs⟩

/-- How a claim about results is used: of the state in which the run ends. -/
theorem ResultClaim.of_next {s t : State} {es : List Event} {Q : State → Prop} (h : ResultClaim s es Q)
    (hs : s.trusted = true) (ht : runEvents s es = .next t) : t.isFinal = true ∧ Q t := by
  obtain ⟨u, hu, hf, hq⟩ := h hs
  cases ht.symm.trans hu
  exact ⟨hf, hq⟩

end Sys2Proof.Machine
end

