-- ==== Sys2Proof/Tests/Slice0.lean ====
section
/-! SUPPORT. The model's own tests. Every expected value is one the spec prints (the vector is named) or is written out from its
encoding tables; the witnesses at the end show that the hypotheses of the statements can be met. -/

namespace Sys2Proof.Tests

open Sys2Proof.Machine

/-- A state after reset with the accumulator, the flag and the next events given. -/
def st (crc : Word) (err : Bool) (es : List Event) : State :=
  { crc := crc, err := err, resetSeen := true, events := es, responses := [] }

/-- A clocked state with nothing in progress. -/
def idleClock (crc : Word) : ClockState := { crc := crc, err := false, busy := false, bitcnt := 0#4, rsp := none }

/-- Pins that present a word. -/
def shows (w : CommandWord) : Pins := { rst := false, cmdValid := true, cmd := w }

/-- Pins that present nothing. -/
def quiet : Pins := { rst := false, cmdValid := false, cmd := 0#11 }

/-- Pins with reset, and a word that must not be accepted. -/
def resetting : Pins := { rst := true, cmdValid := true, cmd := 0x300#11 }

/-! ### Well-formedness: each check refuses an ill-formed term -/

theorem test_word_range : isCommandWord 0x7FF = true ∧ isCommandWord 0x800 = false := by decide

theorem test_canonical : isCanonical 0x2FE#11 = true ∧ isCanonical 0x100#11 = true ∧ isCanonical 0x1C3#11 = false := by decide

theorem test_legal : isLegal 0x5FF#11 = true ∧ isLegal 0x600#11 = false ∧ isLegal 0x7FF#11 = false := by decide

theorem test_checkable : isCheckable [0xFF#8, 0xFF#8] = true ∧ isCheckable [0xFF#8] = false := by decide

theorem test_instr_wellFormed : (Instr.upd 0xFF#8).wellFormed = true := by decide

/-! ### Decoding: every constructor from a word written out bit by bit (R35, R38; spec/95 section 2.7) -/

theorem test_decode_nop : decode 0b00011111111#11 = .nop := by decide

theorem test_decode_init : decode 0b00100000000#11 = .init := by decide

theorem test_decode_upd : decode 0b01011111110#11 = .upd 0xFE#8 := by decide

theorem test_decode_upd_bit0 : decode 0b01000000001#11 = .upd 0x01#8 := by decide

theorem test_decode_rd16 : decode 0b01110100101#11 = .rd16 := by decide

theorem test_decode_rdlo : decode 0b10001010101#11 = .rdlo := by decide

theorem test_decode_rdhi : decode 0b10111111111#11 = .rdhi := by decide

theorem test_decode_reserved6 : decode 0b11010100101#11 = .reserved6 := by decide

theorem test_decode_reserved7 : decode 0b11111111111#11 = .reserved7 := by decide

theorem test_table_word : decodeTableWord 16 0x2FE = some (.upd 0xFE#8) ∧ decodeTableWord 16 0x800 = none := by decide

/-! ### One step of each command (spec/95 sections 2.3, 2.6, 2.7) -/

/-- X2. -/
theorem test_nop : step (st 0x3598#16 false [.cmd 0x0FF#11]) = .next (st 0x3598#16 false []) := rfl

/-- X4: `INIT` does not clear `ERR`. -/
theorem test_init_keeps_err : step (st 0x3598#16 true [.cmd 0x100#11]) = .next (st 0xFFFF#16 true []) := rfl

/-- V12. -/
theorem test_upd : step (st 0x1234#16 false [.cmd 0x256#11]) = .next (st 0xE993#16 false []) := rfl

/-- X11: commands still execute with `ERR = 1`. -/
theorem test_upd_with_err : step (st 0x3598#16 true [.cmd 0x298#11]) = .next (st 0x0035#16 true []) := rfl

/-- X6: the data field is ignored. -/
theorem test_rd16 : step (st 0x3598#16 false [.cmd 0x3A5#11]) =
    .next { st 0x3598#16 false [] with responses := [0x3598#16] } := rfl

/-- Q1. -/
theorem test_rdlo : step (st 0x3598#16 false [.cmd 0x400#11]) =
    .next { st 0x3598#16 false [] with responses := [0x0098#16] } := rfl

/-- X14. -/
theorem test_rdhi : step (st 0x3598#16 false [.cmd 0x5FF#11]) =
    .next { st 0x3598#16 false [] with responses := [0x0035#16] } := rfl

/-- X8. -/
theorem test_reserved6 : step (st 0x3598#16 false [.cmd 0x6A5#11]) = .next (st 0x3598#16 true []) := rfl

/-- X9. -/
theorem test_reserved7 : step (st 0x3598#16 false [.cmd 0x7FF#11]) = .next (st 0x3598#16 true []) := rfl

/-- X12. -/
theorem test_reset_event : step (st 0x3598#16 true [.reset]) = .next (st 0xFFFF#16 false []) := rfl

/-- R102: no command before the first reset. -/
theorem test_power_up_command : step (State.powerUp.withEvents [.cmd 0x100#11]) = .refused .commandBeforeFirstReset := rfl

/-- R102: the first reset gives the reset values. -/
theorem test_power_up_reset : step (State.powerUp.withEvents [.reset]) = .next State.reset := rfl

/-- V7 as the first command after reset. -/
theorem test_fetch_word : step (State.reset.withFetchWord 16 0x2FE) = .next (st 0xC03E#16 false []) := rfl

/-! ### Arithmetic (spec/95 sections 2.1, 2.2, 2.4, 2.5) -/

/-- S4, S6, S7. -/
theorem test_shr1 : shr1 0x0003#16 = 0xA000#16 ∧ shr1 0xFFFF#16 = 0xDFFE#16 ∧ shr1 0xA001#16 = 0xF001#16 := by decide

/-- T11, T12: from the literal and from the generator. -/
theorem test_table : memRead 0xA5#8 = 0x7BC0#16 ∧ tableGen 0xA5#8 = 0x7BC0#16 ∧ memRead 0xFE#8 = 0x8081#16 := by decide

/-- The bit-serial form, R58's example. -/
theorem test_upd_serial : updSerial 0xFFFF#16 0xFE#8 = 0xC03E#16 := by decide

/-- V20, the catalogue check value. -/
theorem test_crc_check_value :
    crcOf [0x31#8, 0x32#8, 0x33#8, 0x34#8, 0x35#8, 0x36#8, 0x37#8, 0x38#8, 0x39#8] = 0x4B37#16 := by decide

/-- V13 against V12g: byte order matters. -/
theorem test_crc_byte_order : crcOf [0x05#8, 0xFE#8] = 0x6083#16 ∧ crcOf [0xFE#8, 0x05#8] = 0xD381#16 := by decide

/-- K2: CRC bytes swapped. -/
theorem test_swapped_residue :
    crcOf [0xFE#8, 0x05#8, 0x00#8, 0x00#8, 0xFF#8, 0x00#8, 0x35#8, 0x98#8] = 0x2DBD#16 := by decide

/-- The reference step function on X7. -/
theorem test_reference : refExec (0x3598#16, false) (.cmd 0x600#11) = ((0x3598#16, true), none) := by decide

/-! ### The clocked engine (spec/95 program P6) -/

/-- P6, edges 2 and 3. -/
theorem test_bitserial_first_edges :
    runEdges .bitSerial (idleClock 0xFFFF#16) [shows 0x2FE#11, quiet] =
      { crc := 0xDF81#16, err := false, busy := true, bitcnt := 7#4, rsp := none } := by decide

/-- P6, edge 10: `BUSY` falls with `BITCNT`. -/
theorem test_bitserial_last_edge :
    edge .bitSerial { crc := 0xC07F#16, err := false, busy := true, bitcnt := 1#4, rsp := none } (shows 0x205#11) =
      idleClock 0xC03E#16 := by decide

/-- P6, last line: the same update in one edge. -/
theorem test_table_edge : edge .table (idleClock 0xFFFF#16) (shows 0x2FE#11) = idleClock 0xC03E#16 := by decide

/-- P6, edge 20. -/
theorem test_read_edge : outPins .bitSerial (edge .bitSerial (idleClock 0xD381#16) (shows 0x300#11)) =
    { cmdReady := true, rsp := some 0xD381#16, err := false } := by decide

/-! ### The textual form (R44, R45) -/

theorem test_asm_upd : parseLine ['U', 'P', 'D', ' ', '0', 'x', 'F', 'E', ' ', ';', ' ', 'x'] = .ok (some (.upd 0xFE#8)) := by
  decide

theorem test_asm_word : parseLine ['.', 'w', 'o', 'r', 'd', ' ', '0', 'x', '6', 'A', '5'] = .ok (some (.word 0x6A5#11)) := by
  decide

theorem test_asm_word_too_wide :
    parseLine ['.', 'w', 'o', 'r', 'd', ' ', '0', 'x', '8', '0', '0'] = .error .badOperand := by decide

theorem test_asm_lower_case : parseLine ['n', 'o', 'p'] = .error .unknownMnemonic := by decide

theorem test_asm_check_too_short :
    parseLine ['C', 'H', 'E', 'C', 'K', ' ', '0', 'x', 'F', 'F'] = .error .operandCount := by decide

theorem test_asm_compute : parseLine ['C', 'O', 'M', 'P', 'U', 'T', 'E', ' ', '0', 'x', 'F', 'E', ',', ' ', '0', 'x', '0', '5'] =
    .ok (some (.compute [0xFE#8, 0x05#8])) := by decide

/-! ### R97: `ERR = 1` is a fault state and never final (the state of R90's example) -/

theorem test_faulted_state_is_not_final : (st 0x3598#16 true []).faulted = true ∧ (st 0x3598#16 true []).isFinal = false := by decide

theorem test_final_needs_the_run_to_end :
    (st 0x3598#16 false []).isFinal = true ∧ (st 0x3598#16 false [.cmd 0x300#11]).isFinal = false := by decide

/-! ### Witnesses: the hypotheses of the statements can be met together, clause by clause -/

theorem witness_ResetWritesCrcAndErrAndWins :
    (st 0x3598#16 true [.reset]).events = .reset :: [] ∧ resetting.rst = true ∧
    ([resetting, resetting] ≠ [] ∧ ∀ p ∈ [resetting, resetting], p.rst = true) := by decide

theorem witness_CommandsBeforeFirstResetAreRefused : State.powerUp.resetSeen = false := rfl

theorem witness_DecodeIsTotalAndInvertsEncode :
    (opField 0x2FF#11 = 2#3 ∨ dField 0x2FF#11 = 0#8) ∧ (opField 0x700#11 = 2#3 ∨ dField 0x700#11 = 0#8) := by decide

theorem witness_OpcodeMapSelectsOneRowAndItsOperation :
    0x0FF#11 &&& 0x700#11 = 0x000#11 ∧ 0x1FF#11 &&& 0x700#11 = 0x100#11 ∧ 0x2FF#11 &&& 0x700#11 = 0x200#11 ∧
    0x3FF#11 &&& 0x700#11 = 0x300#11 ∧ 0x4FF#11 &&& 0x700#11 = 0x400#11 ∧ 0x5FF#11 &&& 0x700#11 = 0x500#11 ∧
    0x6FF#11 &&& 0x700#11 = 0x600#11 ∧ 0x7FF#11 &&& 0x700#11 = 0x700#11 := by decide

theorem witness_DataFieldIsIgnoredOutsideUpd :
    (opField 0x100#11 = opField 0x1FF#11 ∧ opField 0x100#11 ≠ 2#3) ∧ opField 0x5FF#11 < 6#3 := by decide

theorem witness_NumbersAboveElevenBitsAreNoWords : 0x7FF % 2 ^ 16 < 2048 ∧ 2048 ≤ 0x800 % 2 ^ 16 := by decide

theorem witness_StepRunsTheDecodedCommand :
    ((st 0#16 true [.cmd 0x7FF#11]).resetSeen = true ∧ (st 0#16 true [.cmd 0x7FF#11]).events = .cmd 0x7FF#11 :: []) ∧
    State.reset.events = [] := by decide

theorem witness_FetchWordIsTheNextInstruction : decodeTableWord 16 0x7FF = some .reserved7 := by decide

theorem witness_NopChangesNothing : (0x0FF#11 : CommandWord).toNat ≤ 0x0FF ∧ State.reset.resetSeen = true := by decide

theorem witness_InitWritesOnlyTheAccumulator :
    (0x100 ≤ (0x1FF#11 : CommandWord).toNat ∧ (0x1FF#11 : CommandWord).toNat ≤ 0x1FF) ∧
    (State.reset.err = (st 0#16 false []).err ∧ State.reset.resetSeen = (st 0#16 false []).resetSeen ∧
     State.reset.events = (st 0#16 false []).events ∧ State.reset.responses = (st 0#16 false []).responses) := by decide

theorem witness_UpdFoldsTheByteByOneTableLookup :
    (0x200 ≤ (0x2FF#11 : CommandWord).toNat ∧ (0x2FF#11 : CommandWord).toNat ≤ 0x2FF) ∧ State.reset.crc = 0xFFFF#16 := by decide

theorem witness_Rd16RespondsWithTheAccumulator :
    (0x300 ≤ (0x3FF#11 : CommandWord).toNat ∧ (0x3FF#11 : CommandWord).toNat ≤ 0x3FF) ∧ State.reset.resetSeen = true := by decide

theorem witness_RdloRespondsWithTheLowByte :
    (0x400 ≤ (0x4FF#11 : CommandWord).toNat ∧ (0x4FF#11 : CommandWord).toNat ≤ 0x4FF) ∧
    (st 0x3598#16 false []).crc = 0x3598#16 := by decide

theorem witness_RdhiRespondsWithTheHighByte :
    (0x500 ≤ (0x5FF#11 : CommandWord).toNat ∧ (0x5FF#11 : CommandWord).toNat ≤ 0x5FF) ∧
    (st 0x3598#16 false []).crc = 0x3598#16 := by decide

theorem witness_ReservedOpcodesRaiseIllegalCommand :
    0x600 ≤ (0x600#11 : CommandWord).toNat ∧ (0x5FF#11 : CommandWord).toNat < 0x600 ∧
    (exec .reserved6 State.reset = .next (st 0xFFFF#16 true []) ∧ (st 0xFFFF#16 true []).err ≠ State.reset.err) ∧
    (State.reset.resetSeen = true ∧ 0x600 ≤ (0x7FF#11 : CommandWord).toNat) ∧
    (accepts .table (idleClock 0#16) (shows 0x6A5#11) = true ∧ 0x600 ≤ (shows 0x6A5#11).cmd.toNat) :=
  ⟨by decide, by decide, ⟨rfl, by decide⟩, by decide, by decide⟩

theorem witness_EveryCommandCompletesAndLegalOnesNeverRaise :
    (exec .nop (st 0#16 true []) = .next (st 0#16 true []) ∧ Instr.nop ≠ .reserved6 ∧ Instr.nop ≠ .reserved7) ∧
    exec .reserved7 (st 0#16 false []) = .next (st 0#16 true []) := ⟨⟨rfl, by decide, by decide⟩, rfl⟩

theorem witness_CommandsWriteOnlyWhatTheAccessTableSays :
    (Instr.rd16 ≠ .init ∧ ∀ d : Byte, Instr.rd16 ≠ .upd d) ∧ (Instr.upd 0#8 ≠ .reserved6 ∧ Instr.upd 0#8 ≠ .reserved7) ∧
    (Instr.upd 0#8 ≠ .rd16 ∧ Instr.upd 0#8 ≠ .rdlo ∧ Instr.upd 0#8 ≠ .rdhi) :=
  ⟨⟨by decide, fun _ h => nomatch h⟩, by decide, by decide⟩

theorem witness_ResetAbandonsAnUpdateInProgress :
    (edge .bitSerial (idleClock 0xFFFF#16) (shows 0x2FE#11)).busy = true ∧ resetting.rst = true ∧
    State.reset.resetSeen = true := by decide

theorem witness_ErrIsStickyAndChangesNoBehaviour :
    (0x600 ≤ (0x600#11 : CommandWord).toNat ∧ (st 0#16 false [.cmd 0x600#11]).resetSeen = true) ∧
    (step (st 0x3598#16 true [.cmd 0x100#11]) = .next (st 0xFFFF#16 true []) ∧ (st 0x3598#16 true [.cmd 0x100#11]).err = true ∧
      (st 0x3598#16 true [.cmd 0x100#11]).events.head? ≠ some .reset) ∧
    (step (st 0x3598#16 true [.reset]) = .next State.reset ∧ (st 0x3598#16 true [.reset]).events.head? = some .reset) ∧
    exec .nop State.reset = .next State.reset :=
  ⟨by decide, ⟨rfl, by decide, by decide⟩, ⟨rfl, by decide⟩, rfl⟩

theorem witness_ErrRecordsAnIllegalCommandSinceReset :
    State.reset.resetSeen = true ∧
    ((st 0x3598#16 true [.cmd 0x100#11]).faulted = true ∧ (st 0x3598#16 true [.cmd 0x100#11]).events.head? ≠ some .reset ∧
     step (st 0x3598#16 true [.cmd 0x100#11]) = .next (st 0xFFFF#16 true [])) := ⟨rfl, rfl, by decide, rfl⟩

theorem witness_AvoidingReservedWordsKeepsResultsTrusted :
    State.reset.trusted = true ∧ avoidsReserved [.cmd 0x5FF#11, .reset] = true := by decide

theorem witness_RunsFollowTheReferenceStepFunction :
    State.reset.resetSeen = true ∧ beginsWithReset [.reset, .cmd 0x300#11] = true := by decide

theorem witness_EventsExecuteInOrder : runEvents State.reset [.cmd 0x2FE#11] = .next (st 0xC03E#16 false []) := rfl

theorem witness_OneResponsePerReadCommandInOrder :
    (st 0#16 false [.cmd 0x300#11]).resetSeen = true ∧ (st 0#16 false [.cmd 0x300#11]).events = .cmd 0x300#11 :: [] ∧
    (Event.cmd 0x300#11).isRead = true ∧ (Event.cmd 0x600#11).isRead = false := by decide

theorem witness_StepsKeepTheResponseAccount :
    ResponsesAccounted 1 (st 0xFFFF#16 false [.cmd 0x300#11]) ∧
    step (st 0xFFFF#16 false [.cmd 0x300#11]) = .next { st 0xFFFF#16 false [] with responses := [0xFFFF#16] } := ⟨rfl, rfl⟩

theorem witness_OneBitStepIsLinearAndBijective : (1 ≤ 8) ∧ ∀ j < 8, (0xFF00#16).getLsbD j = false := by decide

theorem witness_results_are_claimed_of_trusted_states :
    State.reset.trusted = true ∧ (st 0x3598#16 false []).trusted = true ∧ (st 0x3598#16 true []).trusted = false := by decide

theorem witness_whole_messages_start_after_reset : State.reset.resetSeen = true ∧ (st 0#16 true []).resetSeen = true := by decide

theorem witness_ResidueIsZeroExactlyForTheCrcBytes :
    crcOf ([0xFE#8, 0x01#8, 0x01#8, 0x0F#8] ++ [0x21#8, 0x98#8]) = 0x0000#16 ∧
    crcOf ([] ++ [(crcOf []).extractLsb' 8 8, (crcOf []).extractLsb' 0 8]) = 0x0000#16 := by decide

theorem witness_SingleByteChangeIsDetected : (0x0F#8 : Byte) ≠ 0x0E#8 := by decide

theorem witness_CrcDifferenceDependsOnMessageDifference :
    [0x0F#8, 0x21#8].length = [0x0E#8, 0x98#8].length := by decide

theorem witness_AccumulatorIsTheCrcOfTheOpenMessage :
    State.reset.resetSeen = true ∧ State.reset.crc = crcOf [] ∧ (st 0x40BF#16 false []).crc = crcOf [0x00#8] ∧
    avoidsReserved [.cmd 0x200#11, .reset] = true ∧ (st 0x40BF#16 false []).trusted = true := by decide

theorem witness_ByteReadsAgreeWithTheWordRead :
    State.reset.resetSeen = true ∧ [Event.cmd 0x000#11, .cmd 0x300#11, .cmd 0x600#11].all Event.keepsCrc = true ∧
    readsIn [Event.cmd 0x000#11, .cmd 0x300#11, .cmd 0x600#11] = 1 ∧ ([] : List Event).all Event.keepsCrc = true ∧
    ([Event.cmd 0x300#11].all Event.keepsCrc = true ∧ avoidsReserved ([Event.cmd 0x300#11] ++ []) = true) := by decide

theorem witness_Consistent :
    Consistent .table clockReset = true ∧ Consistent .bitSerial clockReset = true ∧
    Consistent .bitSerial (edge .bitSerial clockReset (shows 0x2FE#11)) = true := by decide

theorem witness_EdgesKeepTheHiddenStateConsistent :
    resetting.rst = true ∧ (edge .bitSerial clockReset (shows 0x2FE#11)).busy = true ∧
    Consistent .table (idleClock 0x3598#16) = true := by decide

theorem witness_OnlyAcceptedWordsHaveAnEffect :
    accepts .bitSerial (idleClock 0#16) (shows 0x2FE#11) = true ∧
    (accepts .bitSerial (edge .bitSerial clockReset (shows 0x2FE#11)) (shows 0x300#11) = false ∧
     accepts .bitSerial (edge .bitSerial clockReset (shows 0x2FE#11)) quiet = false ∧ (shows 0x300#11).rst = false) := by decide

theorem witness_ResetHasPriorityAtAnEdge :
    resetting.rst = true ∧
    ((shows 0x600#11).rst = false ∧ accepts .table clockReset (shows 0x600#11) = true) ∧
    (quiet.rst = false ∧ accepts .table clockReset quiet = false ∧ cmdReady .table clockReset = true) ∧
    (accepts .bitSerial (edge .bitSerial clockReset (shows 0x2FE#11)) (shows 0x300#11) = false ∧
     cmdReady .bitSerial (edge .bitSerial clockReset (shows 0x2FE#11)) = false) := by decide

theorem witness_NothingHappensWithoutACommandOrReset :
    quiet.rst = false ∧ quiet.cmdValid = false ∧ cmdReady .bitSerial clockReset = true ∧ State.reset.events = [] := by decide

theorem witness_BitSerialUpdateTakesEightShiftEdges :
    accepts .bitSerial clockReset (shows 0x2FE#11) = true ∧ decode (shows 0x2FE#11).cmd = .upd 0xFE#8 ∧
    (List.replicate 8 (shows 0x300#11)).length = 8 ∧ ∀ q ∈ List.replicate 8 (shows 0x300#11), q.rst = false := by decide

theorem witness_EngineIsReadyWithinEightEdges :
    Consistent .bitSerial (edge .bitSerial clockReset (shows 0x2FE#11)) = true ∧ (List.replicate 8 quiet).length = 8 := by decide

theorem witness_MessageTakesTheSpecifiedEdges :
    (Consistent .table clockReset = true ∧
      acceptedEvents .table clockReset [shows 0x100#11, shows 0x300#11] = present (computeSeq [])) ∧
    (Consistent .bitSerial clockReset = true ∧
      acceptedEvents .bitSerial clockReset [shows 0x100#11, shows 0x300#11] = present (computeSeq [])) := by decide

theorem witness_AssemblerTextStandsForItsWords : ';' ∉ ['N', 'O', 'P', ' '] := by decide

theorem witness_ResultsAreClaimedOnlyUnderErrZero :
    (avoidsReserved [.cmd 0x2FE#11, .cmd 0x5FF#11] = true ∧ State.reset.trusted = true) ∧
    (0x600 ≤ (0x600#11 : CommandWord).toNat ∧ .reset ∉ [Event.cmd 0x100#11] ∧
     runEvents State.reset ([] ++ .cmd 0x600#11 :: [.cmd 0x100#11]) = .next (st 0xFFFF#16 true [])) :=
  ⟨by decide, by decide, by decide, rfl⟩

end Sys2Proof.Tests
end

section
/-! PROOFS. The machine against the reference step function of spec/00_scope.md R9: one step, then whole runs (O24). -/

namespace Sys2Proof.Machine

/-- The opcode field is the word's number divided by 256 (R35). -/
theorem opField_eq_ofNat (w : CommandWord) : opField w = BitVec.ofNat 3 (w.toNat / 256) := by
  apply BitVec.eq_of_toNat_eq
  simp [opField, Nat.shiftRight_eq_div_pow]

/-- The data field is the remainder of the word's number by 256 (R36). -/
theorem dField_eq_ofNat (w : CommandWord) : dField w = BitVec.ofNat 8 (w.toNat % 256) := by
  apply BitVec.eq_of_toNat_eq
  simp [dField]

/-- The machine's state when the reference step function has answered `r` from its `(CRC, ERR)`: the new pair, and the
response, if any, after the earlier ones. An event that R9 gives a meaning leaves a reset behind it (R102). -/
def State.afterRef (s : State) (r : RefState × Option Word) : State :=
  { crc := r.1.1, err := r.1.2, resetSeen := true, events := s.events, responses := s.responses ++ r.2.toList }

/-- A decoded command does what the reference step function says of its word: the decoder's rows are the opcodes of R9. -/
theorem commandEffect_decode {s : State} (hr : s.resetSeen = true) (w : CommandWord) :
    commandEffect (decode w) s = s.afterRef (refExec (s.crc, s.err) (.cmd w)) := by
  obtain ⟨crc, err, resetSeen, events, responses⟩ := s
  obtain rfl : resetSeen = true := hr
  have hop : w.toNat / 256 < 8 := by omega
  rw [decode, opField_eq_ofNat, dField_eq_ofNat, refExec]
  generalize w.toNat / 256 = op at hop
  interval_cases op <;>
    simp [commandEffect, State.afterRef, State.setCrc, State.respond, raiseIllegalCommand, State.setErr, initValue]

/-- A reset does what the reference step function says of it, whatever happened before. -/
theorem takeReset_eq_afterRef (s : State) : takeReset s = s.afterRef (refExec (s.crc, s.err) .reset) := by
  simp [takeReset_eq, State.afterRef, refExec, initValue]

/-- One step over an event that has a meaning is one call of the reference step function. -/
theorem step_withEvents_cons {s : State} {e : Event} {es : List Event}
    (hm : s.resetSeen = true ∨ beginsWithReset (e :: es) = true) :
    step (s.withEvents (e :: es)) = .next ((s.afterRef (refExec (s.crc, s.err) e)).withEvents es) := by
  cases e with
  | reset =>
    rw [step_reset (State.withEvents_events s _), takeReset_eq_afterRef]
    rfl
  | cmd w =>
    have hr : s.resetSeen = true := by simpa [beginsWithReset] using hm
    rw [step_command (State.withEvents_events s _) hr, State.withEvents, State.setEvents_setEvents,
      commandEffect_setEvents, commandEffect_decode hr, State.withEvents]

/-- The state in which R9 says that the run over `es` from `s` ends. -/
def State.refEnd (s : State) (es : List Event) : State :=
  { crc := (refFinal (s.crc, s.err) es).1, err := (refFinal (s.crc, s.err) es).2, resetSeen := true, events := [],
    responses := s.responses ++ refResponses (s.crc, s.err) es }

/-- A run over no events ends where it began. -/
theorem State.refEnd_nil {s : State} (hr : s.resetSeen = true) : s.refEnd [] = s.withEvents [] := by
  simp [State.refEnd, State.withEvents, State.setEvents, refFinal, refResponses, hr]

/-- A run ends where the run over its later events ends, begun after its first event. -/
theorem State.refEnd_cons (s : State) (e : Event) (es : List Event) :
    s.refEnd (e :: es) = (s.afterRef (refExec (s.crc, s.err) e)).refEnd es := by
  simp [State.refEnd, State.afterRef, refFinal, refResponses]

/-- With no event left the state holds for ever (R9). -/
theorem runSteps_idle {s : State} (h : s.events = []) (k : Nat) : runSteps k s = .next s := by
  induction k with
  | zero => rfl
  | succ k ih => rw [runSteps_succ (step_idle h), ih]

/-- A run over `es`, and any number of steps longer, ends in the state that the reference step function gives. -/
theorem runSteps_withEvents (es : List Event) (k : Nat) (s : State)
    (hm : s.resetSeen = true ∨ beginsWithReset es = true) :
    runSteps (es.length + k) (s.withEvents es) = .next (s.refEnd es) := by
  induction es generalizing s with
  | nil =>
    have hr : s.resetSeen = true := by simpa [beginsWithReset] using hm
    rw [runSteps_idle rfl, State.refEnd_nil hr]
  | cons e es ih =>
    rw [List.length_cons, Nat.succ_add, runSteps_succ (step_withEvents_cons hm), ih _ (.inl rfl), State.refEnd_cons]

/-- The pin `err` after each event of a run is the reference's `ERR`. -/
theorem errTrace_withEvents (es : List Event) (s : State) (hm : s.resetSeen = true ∨ beginsWithReset es = true) :
    errTrace es.length (s.withEvents es) = refErrTrace (s.crc, s.err) es := by
  induction es generalizing s with
  | nil => rfl
  | cons e es ih =>
    have ih := ih (s.afterRef (refExec (s.crc, s.err) e)) (.inl rfl)
    simp only [List.length_cons, errTrace, step_withEvents_cons hm, ih]
    rfl

/-- Settles O24, by induction on the events: each step is one call of the reference step function. -/
theorem runsFollowTheReferenceStepFunction : Obligations.RunsFollowTheReferenceStepFunction := by
  intro s es k hm
  exact ⟨(core_run_eq_runSteps _ _).trans (runSteps_withEvents es k s hm), errTrace_withEvents es s hm⟩

end Sys2Proof.Machine
end

section
/-! PROOFS. What each command writes and what it leaves (spec/10_state.md R11, R13), and the reset values (R19): O1, O19,
O21. -/

namespace Sys2Proof.Machine

/-- Only `INIT` and `UPD` write the accumulator (R11). -/
theorem commandEffect_crc {i : Instr} (hinit : i ≠ .init) (hupd : ∀ d, i ≠ .upd d) (s : State) :
    (commandEffect i s).crc = s.crc := by
  cases i with
  | init => exact absurd rfl hinit
  | upd d => exact absurd rfl (hupd d)
  | nop | rd16 | rdlo | rdhi | reserved6 | reserved7 => rfl

/-- Only a reserved command writes the flag (R13, R90). -/
theorem commandEffect_err {i : Instr} (h6 : i ≠ .reserved6) (h7 : i ≠ .reserved7) (s : State) :
    (commandEffect i s).err = s.err := by
  cases i with
  | reserved6 => exact absurd rfl h6
  | reserved7 => exact absurd rfl h7
  | nop | init | upd | rd16 | rdlo | rdhi => rfl

/-- Only a read command writes the response channel (R40). -/
theorem commandEffect_responses {i : Instr} (h16 : i ≠ .rd16) (hlo : i ≠ .rdlo) (hhi : i ≠ .rdhi) (s : State) :
    (commandEffect i s).responses = s.responses := by
  cases i with
  | rd16 => exact absurd rfl h16
  | rdlo => exact absurd rfl hlo
  | rdhi => exact absurd rfl hhi
  | nop | init | upd | reserved6 | reserved7 => rfl

/-- A read command gives one response, after the earlier ones (R40). -/
theorem commandEffect_read_responds {i : Instr} (h : i = .rd16 ∨ i = .rdlo ∨ i = .rdhi) (s : State) :
    ∃ r, (commandEffect i s).responses = s.responses ++ [r] := by
  rcases h with rfl | rfl | rfl <;> exact ⟨_, rfl⟩

/-- No command clears the flag: only reset does (R13). -/
theorem commandEffect_err_sticky (i : Instr) {s : State} (h : s.err = true) : (commandEffect i s).err = true := by
  cases i with
  | reserved6 | reserved7 => rfl
  | nop | init | upd | rd16 | rdlo | rdhi => exact h

/-- No command reads the flag: what it does to the other fields is the same under either value (R13). -/
theorem commandEffect_ignores_err (i : Instr) (s : State) (b : Bool) :
    commandEffect i { s with err := b } =
      { commandEffect i s with err := (commandEffect i { s with err := b }).err } := by
  cases i <;> rfl

/-- The words from `0x600` on are the reserved ones (R38, R41). -/
theorem decode_reserved {w : CommandWord} (h : 0x600 ≤ w.toNat) : decode w = .reserved6 ∨ decode w = .reserved7 := by
  have hop : w.toNat / 256 = 6 ∨ w.toNat / 256 = 7 := by omega
  rcases hop with hop | hop <;> simp [decode, opField_eq_ofNat, hop]

/-- A reserved word sets the flag and changes nothing else (R90). -/
theorem commandEffect_decode_reserved {w : CommandWord} (h : 0x600 ≤ w.toNat) (s : State) :
    commandEffect (decode w) s = { s with err := true } := by
  rcases decode_reserved h with h' | h' <;> rw [h'] <;> rfl

/-- A step with the flag set that takes no reset leaves it set (R13). -/
theorem step_err_sticky {s t : State} (h : step s = .next t) (he : s.err = true)
    (hr : s.events.head? ≠ some .reset) : t.err = true := by
  obtain ⟨-, rfl⟩ | ⟨es, hes, -⟩ | ⟨w, es, -, -, rfl⟩ := step_next_cases h
  · exact he
  · exact absurd (by rw [hes]; rfl) hr
  · exact commandEffect_err_sticky (decode w) he

/-- A step that takes a reset clears the flag (R13, R100). -/
theorem step_reset_clears_err {s t : State} (h : step s = .next t) (hr : s.events.head? = some .reset) :
    t.err = false := by
  obtain ⟨es, hes⟩ := List.head?_eq_some_iff.mp hr
  rw [step_reset hes] at h
  cases h
  rfl

/-- Settles O19, field by field of the command's effect. -/
theorem commandsWriteOnlyWhatTheAccessTableSays : Obligations.CommandsWriteOnlyWhatTheAccessTableSays := by
  intro i s
  exact ⟨commandEffect i s, exec_eq_next_commandEffect i s, fun hinit hupd => commandEffect_crc hinit hupd s,
    fun h6 h7 => commandEffect_err h6 h7 s, fun h16 hlo hhi => commandEffect_responses h16 hlo hhi s,
    fun hread => commandEffect_read_responds hread s, commandEffect_resetSeen i s, commandEffect_events i s⟩

/-- Settles O21: what a step and a command do to the flag, and that no command reads it. -/
theorem errIsStickyAndChangesNoBehaviour : Obligations.ErrIsStickyAndChangesNoBehaviour := by
  refine ⟨?reservedSets, fun s t => step_err_sticky, fun s t => step_reset_clears_err, ?ignored, State.errPin_eq, rfl⟩
  case reservedSets =>
    intro s w es hr hw hes
    rw [step_command hes hr, commandEffect_decode_reserved hw]
    rfl
  case ignored =>
    intro i s t b h
    rw [exec_eq_next_commandEffect] at h
    cases h
    exact ⟨_, exec_eq_next_commandEffect i _, commandEffect_ignores_err i s b⟩

/-- Settles O1: both reset states hold the values of R19, and in the first cycle each variant is ready. -/
theorem resetLeavesTheSpecifiedValues : Obligations.ResetLeavesTheSpecifiedValues :=
  ⟨rfl, rfl, rfl, rfl, rfl, rfl, rfl, rfl, fun v => match v with | .table => rfl | .bitSerial => rfl⟩

end Sys2Proof.Machine
end

section
/-! PROOFS. The one-bit step and the table are linear, and the bytes of an update (spec/20_memory.md R22, R24,
spec/41_update.md R56, R57). -/

namespace Sys2Proof.Machine

/-- The high byte of an XOR. -/
theorem highByte_xor (u v : Word) : highByte (u ^^^ v) = highByte u ^^^ highByte v := BitVec.extractLsb'_xor

/-- The low byte of an XOR. -/
theorem lowByte_xor (u v : Word) : lowByte (u ^^^ v) = lowByte u ^^^ lowByte v := BitVec.extractLsb'_xor

/-- A word is its two bytes. -/
theorem word_eq_of_bytes {u v : Word} (hhi : highByte u = highByte v) (hlo : lowByte u = lowByte v) : u = v := by
  have hbytes (x : Word) : x = highByte x ++ lowByte x :=
    BitVec.extractLsb'_eq_self.symm.trans
      (BitVec.extractLsb'_append_extractLsb'_eq_extractLsb' (start₁ := 0) (len₁ := 8) (len₂ := 8) rfl).symm
  rw [hbytes u, hbytes v, hhi, hlo]

/-- The one-bit step is linear (R57): the polynomial is XORed in twice, once, or not at all. -/
theorem shr1_xor (u v : Word) : shr1 (u ^^^ v) = shr1 u ^^^ shr1 v := by
  simp only [shr1, BitVec.getLsbD_xor, BitVec.ushiftRight_xor_distrib]
  cases u.getLsbD 0 <;> cases v.getLsbD 0 <;> simp [BitVec.xor_assoc, BitVec.xor_comm polyR]

/-- So are any number of one-bit steps. -/
theorem shrSteps_xor (n : Nat) (u v : Word) : shrSteps n (u ^^^ v) = shrSteps n u ^^^ shrSteps n v := by
  induction n generalizing u v with
  | zero => rfl
  | succ n ih => rw [shrSteps, shr1_xor, ih]; rfl

/-- So is the generator of the table. -/
theorem tableGen_xor (i j : Byte) : tableGen (i ^^^ j) = tableGen i ^^^ tableGen j := by
  rw [tableGen, zext16, BitVec.setWidth_xor, shrSteps_xor]
  rfl

/-- The `n` entries from index `start` on, as the generator gives them (R22). -/
def generatedEntries (start n : Nat) : List Word :=
  (List.range' start n).map fun i => tableGen (BitVec.ofNat 8 i)

/-- Two adjacent stretches of entries are one. -/
theorem generatedEntries_append (start m n : Nat) :
    generatedEntries start m ++ generatedEntries (start + m) n = generatedEntries start (m + n) := by
  simp [generatedEntries, ← List.map_append]

/-- The printed table is the generated one, compared quarter by quarter (R22, R23). -/
theorem tableEntries_generated : tableEntries = generatedEntries 0 (64 + 64 + 64 + 64) := by
  have h0 : tableQuarter0 = generatedEntries 0 64 := by decide
  have h1 : tableQuarter1 = generatedEntries 64 64 := by decide
  have h2 : tableQuarter2 = generatedEntries 128 64 := by decide
  have h3 : tableQuarter3 = generatedEntries 192 64 := by decide
  rw [tableEntries, h0, h1, h2, h3, ← generatedEntries_append, ← generatedEntries_append, ← generatedEntries_append]

/-- Every entry of the printed table is what the generator gives (R22). -/
theorem memRead_eq_tableGen (i : Byte) : memRead i = tableGen i := by
  simp [memRead, tableEntries_generated, generatedEntries]

/-- An entry is known by its high byte alone: the table is linear, and only entry 0 has the high byte 0. -/
theorem highByte_memRead_injective : Function.Injective fun i => highByte (memRead i) := by
  have hzero : ∀ i : Byte, highByte (tableGen i) = 0#8 → i = 0#8 := by decide
  intro i j h
  simp only [memRead_eq_tableGen] at h
  apply BitVec.xor_eq_zero_iff.mp
  apply hzero
  rw [tableGen_xor, highByte_xor, h, BitVec.xor_self]

/-- Every byte is the high byte of an entry: there are as many bytes as entries. -/
theorem exists_highByte_memRead (h : Byte) : ∃ i, highByte (memRead i) = h :=
  Finite.surjective_of_injective highByte_memRead_injective h

/-- The high byte of the new accumulator is that of the table entry (R56). -/
theorem highByte_upd (a : Word) (b : Byte) : highByte (upd a b) = highByte (memRead (tableIndex a b)) := by
  have h : highByte (a >>> 8) = 0#8 := by
    ext k hk
    simp only [highByte, BitVec.getElem_extractLsb', BitVec.getLsbD_ushiftRight, BitVec.getElem_zero]
    exact BitVec.getLsbD_of_ge _ _ (by omega)
  rw [upd, highByte_xor, h, BitVec.zero_xor]

/-- The low byte of the new accumulator is the old high byte XOR the low byte of the table entry (R56). -/
theorem lowByte_upd (a : Word) (b : Byte) : lowByte (upd a b) = highByte a ^^^ lowByte (memRead (tableIndex a b)) := by
  have h : lowByte (a >>> 8) = highByte a := by
    ext k hk
    simp [lowByte, highByte]
  rw [upd, lowByte_xor, h]

/-- Some message byte makes the table index any index wanted. -/
theorem tableIndex_lowByte_xor (a : Word) (i : Byte) : tableIndex a (lowByte a ^^^ i) = i := by
  rw [tableIndex, ← BitVec.xor_assoc, BitVec.xor_self, BitVec.zero_xor]

end Sys2Proof.Machine
end

section
/-! PROOFS. The host reaches every accumulator value by two `UPD`s (spec/10_state.md R10): O29. -/

namespace Sys2Proof.Machine

/-- The decoder undoes the encoder (R43). -/
theorem decode_encode (i : Instr) : decode (encode i) = i := by
  cases i with
  | upd d => revert d; decide
  | nop | init | rd16 | rdlo | rdhi | reserved6 | reserved7 => rfl

/-- The word of an `UPD` is legal (R41). -/
theorem isLegal_encode_upd : ∀ d : Byte, isLegal (encode (.upd d)) = true := by decide

/-- A run over presented commands is their effects one after another, and completes (R30, R91). -/
theorem runEvents_present {s : State} (hr : s.resetSeen = true) (is : List Instr) :
    runEvents s (present is) = .next ((is.foldl (fun t i => commandEffect i t) s).withEvents []) := by
  induction is generalizing s with
  | nil => rfl
  | cons i is ih =>
    rw [present, List.map_cons, runEvents_command hr, decode_encode]
    exact ih ((commandEffect_resetSeen i s).trans hr)

/-- Two bytes lead from any accumulator to any other: the second chooses the high byte of the result, and the first the high
byte in between, which the second update moves into the low byte. -/
theorem exists_upd_upd (a v : Word) : ∃ b c, upd (upd a b) c = v := by
  obtain ⟨j, hj⟩ := exists_highByte_memRead (highByte v)
  obtain ⟨i, hi⟩ := exists_highByte_memRead (lowByte v ^^^ lowByte (memRead j))
  have hbetween : highByte (upd a (lowByte a ^^^ i)) = lowByte v ^^^ lowByte (memRead j) := by
    rw [highByte_upd, tableIndex_lowByte_xor, hi]
  refine ⟨lowByte a ^^^ i, lowByte (upd a (lowByte a ^^^ i)) ^^^ j, word_eq_of_bytes ?_ ?_⟩
  · rw [highByte_upd, tableIndex_lowByte_xor, hj]
  · rw [lowByte_upd, tableIndex_lowByte_xor, hbetween, BitVec.xor_assoc, BitVec.xor_self, BitVec.xor_zero]

/-- Settles O29: two `UPD`s after reset, by the two bytes that lead from `0xFFFF` to the value. -/
theorem everyAccumulatorValueIsReachable : Obligations.EveryAccumulatorValueIsReachable := by
  refine ⟨rfl, fun v => ?_⟩
  obtain ⟨b, c, hv⟩ := exists_upd_upd State.reset.crc v
  refine ⟨present [.upd b, .upd c], _, ?legal, runEvents_present rfl _, hv, rfl⟩
  case legal => simp [present, avoidsReserved, Event.isIllegal, isLegal_encode_upd]

end Sys2Proof.Machine
end

section
/-! PROOFS. The laws of the table (spec/20_memory.md R22, R24): O30, O32. -/

namespace Sys2Proof.Machine

/-- The printed table is linear (R24 (b)). -/
theorem memRead_xor (i j : Byte) : memRead (i ^^^ j) = memRead i ^^^ memRead j := by
  simp only [memRead_eq_tableGen, tableGen_xor]

/-- Different indexes have different entries (R24 (d)): their high bytes differ already. -/
theorem memRead_injective : Function.Injective memRead :=
  Function.Injective.of_comp (f := highByte) highByte_memRead_injective

/-- The positions of the bits set in an index, the lowest first. -/
def setBits (i : Byte) : List Nat := (List.range 8).filter fun k => i.getLsbD k

/-- A byte is the XOR of its set bits. -/
theorem foldl_xor_setBits : ∀ i : Byte, (setBits i).foldl (fun v k => v ^^^ 1#8 <<< k) 0x00#8 = i := by decide

/-- The entry at an XOR of single bits is the XOR of their entries: linearity, bit by bit. -/
theorem memRead_foldl_xor (ks : List Nat) (i : Byte) :
    memRead (ks.foldl (fun v k => v ^^^ 1#8 <<< k) i) = ks.foldl (fun v k => v ^^^ memRead (1#8 <<< k)) (memRead i) := by
  induction ks generalizing i with
  | nil => rfl
  | cons k ks ih => rw [List.foldl_cons, ih, memRead_xor, List.foldl_cons]

/-- Every entry is the XOR of the entries for the bits set in its index (R24 (c)). -/
theorem memRead_eq_foldl_setBits (i : Byte) :
    memRead i = (setBits i).foldl (fun v k => v ^^^ memRead (1#8 <<< k)) 0x0000#16 :=
  calc memRead i
    _ = memRead ((setBits i).foldl (fun v k => v ^^^ 1#8 <<< k) 0x00#8) := by rw [foldl_xor_setBits]
    _ = (setBits i).foldl (fun v k => v ^^^ memRead (1#8 <<< k)) (memRead 0x00#8) := memRead_foldl_xor _ _

/-- A bit that is set in each of the words XORed into `v` is flipped once for each of them. -/
theorem getLsbD_foldl_xor {b : Nat} {entry : Nat → Word} {ks : List Nat} (h : ∀ k ∈ ks, (entry k).getLsbD b = true)
    (v : Word) :
    (ks.foldl (fun v k => v ^^^ entry k) v).getLsbD b = (v.getLsbD b ^^ ks.length % 2 == 1) := by
  induction ks generalizing v with
  | nil => simp
  | cons k ks ih =>
    obtain ⟨hk, hks⟩ := List.forall_mem_cons.mp h
    rw [List.foldl_cons, ih hks, BitVec.getLsbD_xor, hk, List.length_cons]
    rcases Nat.mod_two_eq_zero_or_one ks.length with hpar | hpar <;> simp [Nat.add_mod, hpar]

/-- The eight single-bit entries have bits 15 and 0 set. -/
theorem memRead_single_bit_ends :
    ∀ k < 8, (memRead (1#8 <<< k)).getLsbD 15 = true ∧ (memRead (1#8 <<< k)).getLsbD 0 = true := by decide

/-- A bit set in all eight single-bit entries is, in every entry, the parity of the index. -/
theorem memRead_getLsbD_eq_parity {b : Nat} (h : ∀ k < 8, (memRead (1#8 <<< k)).getLsbD b = true) (i : Byte) :
    (memRead i).getLsbD b = ((setBits i).length % 2 == 1) := by
  have hbits : ∀ k ∈ setBits i, (memRead (1#8 <<< k)).getLsbD b = true := fun k hk =>
    h k (List.mem_range.mp (List.mem_filter.mp hk).1)
  rw [memRead_eq_foldl_setBits, getLsbD_foldl_xor hbits, BitVec.getLsbD_zero, Bool.false_xor]

/-- Settles O30: the printed table is the generated one, and the rule's three worked entries. -/
theorem tableIsGeneratedByEightSteps : Obligations.TableIsGeneratedByEightSteps :=
  ⟨memRead_eq_tableGen, fun _ => rfl, fun _ => rfl, by decide⟩

/-- Settles O32: linearity, from which the single-bit entries give every entry and its parity marks, and injectivity. -/
theorem tableIsLinearInjectiveAndParityMarked : Obligations.TableIsLinearInjectiveAndParityMarked := by
  refine ⟨rfl, memRead_xor, rfl, rfl, rfl, rfl, rfl, rfl, rfl, rfl, memRead_eq_foldl_setBits,
    fun i j h => memRead_injective h, fun i => ⟨?bit15, ?bit0⟩⟩
  case bit15 => exact memRead_getLsbD_eq_parity (fun k hk => (memRead_single_bit_ends k hk).1) i
  case bit0 => exact memRead_getLsbD_eq_parity (fun k hk => (memRead_single_bit_ends k hk).2) i

end Sys2Proof.Machine
end

section
/-! PROOFS. Runs compose (spec/20_memory.md R30): O25. -/

namespace Sys2Proof.Machine

/-- A run looks only at the events it is given, not at those that stood in the state. -/
theorem runEvents_withEvents (s : State) (es fs : List Event) : runEvents (s.withEvents es) fs = runEvents s fs := rfl

/-- A completed run goes on, over any later events, from the state in which it ended. -/
theorem runEvents_append {s t : State} {es : List Event} (h : runEvents s es = .next t) (fs : List Event) :
    runEvents s (es ++ fs) = runEvents t fs := by
  induction es generalizing s with
  | nil =>
    rw [runEvents_nil] at h
    cases h
    exact (runEvents_withEvents s [] fs).symm
  | cons e es ih =>
    match e, hr : s.resetSeen with
    | .reset, _ =>
      rw [runEvents_reset] at h
      rw [List.cons_append, runEvents_reset, ih h]
    | .cmd w, true =>
      rw [runEvents_command hr] at h
      rw [List.cons_append, runEvents_command hr, ih h]
    | .cmd w, false =>
      rw [runEvents_early_command hr] at h
      cases h

/-- Settles O25, by induction on the first list of events. -/
theorem eventsExecuteInOrder : Obligations.EventsExecuteInOrder :=
  fun _ _ _ fs h => runEvents_append h fs

end Sys2Proof.Machine
end

section
/-! PROOFS. The decoder as a function of the two fields, and the opcode map (spec/30_encoding.md R35, R38, R39, R43): O4, O5,
O6. -/

namespace Sys2Proof.Machine

/-- A command word is its opcode field and its data field (R35). -/
theorem opField_append_dField (w : CommandWord) : opField w ++ dField w = w :=
  (BitVec.extractLsb'_append_extractLsb'_eq_extractLsb' (start₁ := 0) (len₁ := 8) (len₂ := 3) rfl).trans
    BitVec.extractLsb'_eq_self

/-- The mask `0x700` keeps the opcode field and clears the data field (R38). -/
theorem and_opcodeMask (w : CommandWord) : w &&& opcodeMask = opField w ++ 0#8 := by
  have hmask : opcodeMask = BitVec.allOnes 3 ++ 0#8 := rfl
  calc w &&& opcodeMask
    _ = (opField w ++ dField w) &&& (BitVec.allOnes 3 ++ 0#8) := by rw [opField_append_dField, hmask]
    _ = opField w ++ 0#8 := by rw [BitVec.and_append, BitVec.and_allOnes, BitVec.and_zero]

/-- The match value that a word equals under the mask `0x700` names the word's opcode (R38). -/
theorem opField_of_and_opcodeMask {w : CommandWord} {op : Opcode} (h : w &&& opcodeMask = op ++ 0#8) : opField w = op :=
  (BitVec.append_left_inj 0#8).mp ((and_opcodeMask w).symm.trans h)

/-- The match value of row `k` is `256 * k` (R38). -/
theorem matchValue_eq_append : ∀ k : Fin 8, BitVec.ofNat 11 (256 * k.val) = (BitVec.ofFin k : Opcode) ++ 0#8 := by decide

/-- The decoder's case table (R43), as a function of the two fields. -/
def decodeFields (op : Opcode) (d : Byte) : Instr :=
  if op = 0#3 then .nop
  else if op = 1#3 then .init
  else if op = 2#3 then .upd d
  else if op = 3#3 then .rd16
  else if op = 4#3 then .rdlo
  else if op = 5#3 then .rdhi
  else if op = 6#3 then .reserved6
  else .reserved7

/-- The decoder reads the two fields and nothing else. -/
theorem decode_eq_decodeFields (w : CommandWord) : decode w = decodeFields (opField w) (dField w) := rfl

/-- Outside `UPD` the data field is ignored (R39). -/
theorem decodeFields_ignores_data {op : Opcode} (h : op ≠ 2#3) (d d' : Byte) : decodeFields op d = decodeFields op d' := by
  simp only [decodeFields, h, if_false]

/-- The word of `UPD d` is its opcode and the byte (R36, R39). -/
theorem encode_upd_eq_append (d : Byte) : encode (.upd d) = 2#3 ++ d := by
  revert d; decide

/-- On canonical fields the encoder undoes the decoder (R43). -/
theorem encode_decodeFields {op : Opcode} {d : Byte} (h : op = 2#3 ∨ d = 0#8) : encode (decodeFields op d) = op ++ d := by
  rcases h with rfl | rfl
  · exact encode_upd_eq_append d
  · revert op; decide

/-- No word below the reserved opcodes decodes to a reserved command (R41). -/
theorem decodeFields_legal {op : Opcode} (h : op < 6#3) (d : Byte) :
    decodeFields op d ≠ .reserved6 ∧ decodeFields op d ≠ .reserved7 := by
  have hop : op = 0#3 ∨ op = 1#3 ∨ op = 2#3 ∨ op = 3#3 ∨ op = 4#3 ∨ op = 5#3 := by revert op; decide
  rcases hop with rfl | rfl | rfl | rfl | rfl | rfl <;> exact ⟨nofun, nofun⟩

/-- A word executes as the command of the row that it selects under the mask (R38). -/
theorem exec_decode_of_and_opcodeMask {w : CommandWord} {op : Opcode} (h : w &&& opcodeMask = op ++ 0#8) (s : State) :
    exec (decode w) s = .next (commandEffect (decodeFields op (dField w)) s) := by
  rw [exec_eq_next_commandEffect, decode_eq_decodeFields, opField_of_and_opcodeMask h]

/-- Settles O4: the case table opcode by opcode, and the round trips. -/
theorem decodeIsTotalAndInvertsEncode : Obligations.DecodeIsTotalAndInvertsEncode := by
  refine ⟨fun w => ?caseTable, decode_encode, fun w h => ?canonical⟩
  case caseTable =>
    have hop : w.toNat / 256 < 8 := by omega
    rw [decode_eq_decodeFields, opField_eq_ofNat, dField_eq_ofNat]
    generalize w.toNat / 256 = op at hop
    interval_cases op <;> rfl
  case canonical => rw [decode_eq_decodeFields, encode_decodeFields h, opField_append_dField]

/-- Settles O5: under the mask a word is its opcode field, which is the number of one row and gives that row's command. -/
theorem opcodeMapSelectsOneRowAndItsOperation : Obligations.OpcodeMapSelectsOneRowAndItsOperation := by
  intro w s
  refine ⟨⟨(opField w).toFin, ?selected, fun j hj => ?unique⟩,
    fun h => exec_decode_of_and_opcodeMask (op := 0#3) h s, fun h => exec_decode_of_and_opcodeMask (op := 1#3) h s,
    fun h => exec_decode_of_and_opcodeMask (op := 2#3) h s, fun h => exec_decode_of_and_opcodeMask (op := 3#3) h s,
    fun h => exec_decode_of_and_opcodeMask (op := 4#3) h s, fun h => exec_decode_of_and_opcodeMask (op := 5#3) h s,
    fun h => exec_decode_of_and_opcodeMask (op := 6#3) h s, fun h => exec_decode_of_and_opcodeMask (op := 7#3) h s⟩
  case selected => exact (and_opcodeMask w).trans (matchValue_eq_append _).symm
  case unique => exact congrArg BitVec.toFin (opField_of_and_opcodeMask (hj.trans (matchValue_eq_append j))).symm

/-- Settles O6: the decoder reads the data field in the row of `UPD` alone. -/
theorem dataFieldIsIgnoredOutsideUpd : Obligations.DataFieldIsIgnoredOutsideUpd := by
  refine ⟨fun w w' hop hupd => ?ignored, rfl, rfl, rfl, rfl, rfl, fun w s hlegal => ?noError,
    fun d => ⟨decode_encode (.upd d), rfl⟩⟩
  case ignored => rw [decode_eq_decodeFields, decode_eq_decodeFields, ← hop, decodeFields_ignores_data hupd]
  case noError =>
    obtain ⟨h6, h7⟩ := decodeFields_legal hlegal (dField w)
    exact ⟨_, exec_eq_next_commandEffect _ s, commandEffect_err h6 h7 s⟩

end Sys2Proof.Machine
end

section
/-! PROOFS. The pseudo-instructions (spec/30_encoding.md R45): O58. -/

namespace Sys2Proof.Machine

/-- The words of a message: `INIT`, one `UPD` per byte, and the words of the reads after it (R45). -/
theorem present_message (m : List Byte) (reads : List Instr) :
    present (.init :: (m.map .upd ++ reads)) =
      .cmd 0x100#11 :: (m.map (fun b => Event.cmd (0x200#11 + b.setWidth 11)) ++ present reads) := by
  rw [present, List.map_cons, List.map_append, List.map_map]
  rfl

/-- Settles O58: each is a message with its reads; `CHECK` has the two stored bytes in the message. -/
theorem pseudoInstructionsExpand : Obligations.PseudoInstructionsExpand :=
  ⟨fun m => present_message m [.rd16], fun m => present_message m [.rdlo, .rdhi],
    fun m lo hi => present_message (m ++ [lo, hi]) [.rd16]⟩

end Sys2Proof.Machine
end

section
/-! PROOFS. What an edge of the clocked engine does, and the responses (spec/30_encoding.md R37, R40): O26, O51. -/

namespace Sys2Proof.Machine

/-- When a word is accepted (R37). -/
theorem accepts_iff {v : Variant} {c : ClockState} {p : Pins} :
    accepts v c p = true ↔ p.rst = false ∧ p.cmdValid = true ∧ cmdReady v c = true := by
  simp [accepts, and_assoc]

/-- An edge with `rst = 1` (R100). -/
theorem edge_reset {v : Variant} {c : ClockState} {p : Pins} (h : p.rst = true) : edge v c p = clockReset := by
  simp [edge, h]

/-- An edge at which a word is accepted. -/
theorem edge_accepted {v : Variant} {c : ClockState} {p : Pins} (h : accepts v c p = true) :
    edge v c p = acceptEdge v c p.cmd := by
  obtain ⟨hrst, hvalid, hready⟩ := accepts_iff.mp h
  simp [edge, hrst, hvalid, hready]

/-- An edge at which no word is accepted and no reset is taken: the state holds, or an update in progress makes a shift. -/
theorem edge_not_accepted {v : Variant} {c : ClockState} {p : Pins} (hrst : p.rst = false) (h : accepts v c p = false) :
    edge v c p = if cmdReady v c then { c with rsp := none } else shiftEdge c := by
  cases hready : cmdReady v c with
  | false => simp [edge, hrst, hready]
  | true =>
    have hvalid : p.cmdValid = false := by simpa [accepts, hrst, hready] using h
    simp [edge, hrst, hready, hvalid]

/-- The one event of an edge (R7, R9). -/
theorem acceptedEvents_singleton (v : Variant) (c : ClockState) (p : Pins) :
    acceptedEvents v c [p] = if p.rst then [.reset] else if accepts v c p then [.cmd p.cmd] else [] :=
  List.append_nil _

/-- The accepting edge of `UPD` begins no response cycle. -/
@[simp] theorem updEdge_rsp (v : Variant) (c : ClockState) (d : Byte) : (updEdge v c d).rsp = none := by
  cases v <;> rfl

/-- The accepting edge of a read command begins a response cycle with the command's value, and no other does (R40). -/
theorem acceptEdge_rsp_iff (v : Variant) (c : ClockState) (w : CommandWord) (r : Word) :
    (acceptEdge v c w).rsp = some r ↔ (decode w = .rd16 ∧ r = c.crc) ∨
      (decode w = .rdlo ∧ r = zext16 (lowByte c.crc)) ∨ (decode w = .rdhi ∧ r = zext16 (highByte c.crc)) := by
  rw [acceptEdge]
  cases decode w with
  | rd16 | rdlo | rdhi => simp [eq_comm]
  | nop | init | upd | reserved6 | reserved7 => simp

/-- An edge at which no word is accepted ends the response cycle (R40). -/
theorem edge_rsp_not_accepted {v : Variant} {c : ClockState} {p : Pins} (h : accepts v c p = false) :
    (edge v c p).rsp = none := by
  cases hrst : p.rst with
  | true => rw [edge_reset hrst]; rfl
  | false => rw [edge_not_accepted hrst h]; split <;> rfl

/-- The read commands are `RD16`, `RDLO` and `RDHI` (R40). -/
theorem isRead_cmd_iff {w : CommandWord} :
    (Event.cmd w).isRead = true ↔ decode w = .rd16 ∨ decode w = .rdlo ∨ decode w = .rdhi := by
  simp [Event.isRead, or_assoc]

/-- Settles O26: a step by its event, an edge by whether a word is accepted at it. -/
theorem oneResponsePerReadCommandInOrder : Obligations.OneResponsePerReadCommandInOrder := by
  refine ⟨fun s e es hr hes => ?step, fun v c p r => ?pins⟩
  case step =>
    cases e with
    | reset => exact ⟨_, step_reset hes, nofun, fun _ => rfl⟩
    | cmd w =>
      refine ⟨_, step_command hes hr, fun h => commandEffect_read_responds (isRead_cmd_iff.mp h) _, fun h => ?_⟩
      have hnot := mt isRead_cmd_iff.mpr (Bool.eq_false_iff.mp h)
      obtain ⟨h16, hlo, hhi⟩ : decode w ≠ .rd16 ∧ decode w ≠ .rdlo ∧ decode w ≠ .rdhi := by simpa only [not_or] using hnot
      exact commandEffect_responses h16 hlo hhi _
  case pins =>
    cases h : accepts v c p with
    | true => rw [edge_accepted h, acceptEdge_rsp_iff]; exact (and_iff_right rfl).symm
    | false => rw [edge_rsp_not_accepted h]; simp

/-- Settles O51: an edge is a reset, an accepted word, or neither, and only the second reads `cmd`. -/
theorem onlyAcceptedWordsHaveAnEffect : Obligations.OnlyAcceptedWordsHaveAnEffect := by
  refine ⟨fun v c p => accepts_iff, fun v c p h => ⟨?event, edge_accepted h⟩, fun v c p valid w h h' => ?noEffect,
    fun v c p h hrst => ?noEvent, fun c => ⟨rfl, rfl⟩⟩
  case event => simp [acceptedEvents_singleton, h, (accepts_iff.mp h).1]
  case noEffect =>
    cases hrst : p.rst with
    | true => rw [edge_reset hrst, edge_reset rfl]
    | false => rw [edge_not_accepted hrst h, edge_not_accepted rfl (hrst ▸ h')]
  case noEvent => simp [acceptedEvents_singleton, h, hrst]

end Sys2Proof.Machine
end

section
/-! PROOFS. `NOP` and `INIT` (spec/40_control.md R50, R51), and the accumulator after `INIT` and the bytes of a message (R52):
O11, O12, O46. -/

namespace Sys2Proof.Machine

/-- The words up to `0x0FF` are those of `NOP` (R50). -/
theorem decode_nop {w : CommandWord} (h : w.toNat ≤ 0x0FF) : decode w = .nop := by
  have hop : w.toNat / 256 = 0 := by omega
  rw [decode_eq_decodeFields, opField_eq_ofNat, hop]
  rfl

/-- The words from `0x100` to `0x1FF` are those of `INIT` (R51). -/
theorem decode_init {w : CommandWord} (hlo : 0x100 ≤ w.toNat) (hhi : w.toNat ≤ 0x1FF) : decode w = .init := by
  have hop : w.toNat / 256 = 1 := by omega
  rw [decode_eq_decodeFields, opField_eq_ofNat, hop]
  rfl

/-- The `UPD`s of a message fold its bytes into the accumulator and write nothing else (R78). -/
theorem foldl_commandEffect_upd (m : List Byte) (s : State) :
    (m.map .upd).foldl (fun t i => commandEffect i t) s = s.setCrc (foldCrc m s.crc) := by
  induction m generalizing s with
  | nil => rfl
  | cons b m ih => exact ih (s.setCrc (upd s.crc b))

/-- `INIT` overwrites the accumulator, so the fold of the message begins at `0xFFFF` whatever stood there (R52). -/
theorem foldl_commandEffect_init_message (m : List Byte) (s : State) :
    (Instr.init :: m.map .upd).foldl (fun t i => commandEffect i t) s = s.setCrc (crcOf m) :=
  foldl_commandEffect_upd m (s.setCrc initValue)

/-- The run over `INIT` and the bytes of a message writes `crc(m)` to the accumulator and nothing else (R52). -/
theorem runEvents_init_message {s : State} (hr : s.resetSeen = true) (m : List Byte) :
    runEvents s (present (.init :: m.map .upd)) = .next ((s.setCrc (crcOf m)).withEvents []) := by
  rw [runEvents_present hr, foldl_commandEffect_init_message]

/-- Settles O46: the run itself, and the claim about its result, whose final state is trusted because the start state was. -/
theorem initMakesComputationsIndependent : Obligations.InitMakesComputationsIndependent := by
  refine ⟨fun s m hr => runEvents_init_message hr m, fun s m htrusted => ?claim⟩
  case claim =>
    obtain ⟨hr, -⟩ := s.trusted_iff.mp htrusted
    exact ResultClaim.of_run (runEvents_init_message hr m) (by simp) (fun _ => rfl) htrusted

/-- Settles O11: a word of `NOP` has no effect, so the run goes on from the same state. -/
theorem nopChangesNothing : Obligations.NopChangesNothing := by
  refine ⟨fun w => decode_nop, rfl, fun s => exec_eq_next_commandEffect .nop s, fun s w es hr hw => ?run⟩
  case run => rw [runEvents_command hr, decode_nop hw, commandEffect]

/-- Settles O12: `INIT` writes a constant to the accumulator, so states that differ only there become the same. -/
theorem initWritesOnlyTheAccumulator : Obligations.InitWritesOnlyTheAccumulator := by
  refine ⟨fun w => decode_init, rfl, fun s => exec_eq_next_commandEffect .init s,
    fun s t herr hreset hevents hresponses => ?forgets, exec_eq_next_commandEffect .init State.reset,
    fun s => exec_eq_next_commandEffect .init _⟩
  case forgets =>
    have hsame : commandEffect .init s = commandEffect .init t := by
      rw [commandEffect, commandEffect, State.setCrc, State.setCrc, herr, hreset, hevents, hresponses]
    rw [exec_eq_next_commandEffect, exec_eq_next_commandEffect, hsame]

end Sys2Proof.Machine
end

section
/-! PROOFS. The laws of the one-bit step (spec/41_update.md R57): O33. -/

namespace Sys2Proof.Machine

/-- Bit 15 of the result is the bit shifted out: the shift brings a zero in there, and the polynomial has that bit set. -/
theorem shr1_getLsbD_15 (v : Word) : (shr1 v).getLsbD 15 = v.getLsbD 0 := by
  rw [shr1]
  cases v.getLsbD 0 <;> simp [polyR]

/-- The step on a word whose bit 0 is clear is a plain shift. -/
theorem shr1_of_even {v : Word} (h : v.getLsbD 0 = false) : shr1 v = v >>> 1 := by
  rw [shr1, h]
  rfl

/-- The step on a word whose bit 0 is set. -/
theorem shr1_of_odd {v : Word} (h : v.getLsbD 0 = true) : shr1 v = v >>> 1 ^^^ polyR := by
  rw [shr1, h]
  rfl

/-- The rule's formula for the step backwards (R57 (c)). -/
def unshr1 (w : Word) : Word := if w.getLsbD 15 then ((w ^^^ polyR) <<< 1) + 1#16 else w <<< 1

/-- Shifting right and back loses bit 0 only. -/
theorem ushiftRight_shiftLeft_one (v : Word) : v >>> 1 <<< 1 + (bif v.getLsbD 0 then 1#16 else 0#16) = v := by
  have hparity : (v.getLsbD 0).toNat = v.toNat % 2 := by
    rw [BitVec.getLsbD, Nat.toNat_testBit, Nat.pow_zero, Nat.div_one]
  have hbit : (bif v.getLsbD 0 then 1#16 else 0#16).toNat = v.toNat % 2 := by
    rw [← hparity]
    cases v.getLsbD 0 <;> rfl
  have hv := v.isLt
  apply BitVec.eq_of_toNat_eq
  rw [BitVec.toNat_add, BitVec.toNat_shiftLeft, BitVec.toNat_ushiftRight, hbit, Nat.shiftLeft_eq,
    Nat.shiftRight_eq_div_pow]
  omega

/-- The formula undoes the step: bit 15 says whether the polynomial was XORed in, and it is bit 0 of the old value. -/
theorem unshr1_shr1 : Function.LeftInverse unshr1 shr1 := by
  intro v
  have hback := ushiftRight_shiftLeft_one v
  rw [unshr1, shr1_getLsbD_15]
  cases h : v.getLsbD 0 with
  | false => rw [h] at hback; simpa [shr1_of_even h] using hback
  | true => rw [h] at hback; simpa [shr1_of_odd h, BitVec.xor_assoc] using hback

/-- The step is a bijection (R57 (c)): it has a left inverse, and there are finitely many words. -/
theorem shr1_bijective : Function.Bijective shr1 := Finite.injective_iff_bijective.mp unshr1_shr1.injective

/-- A shift leaves one low zero bit fewer (R57 (d)). -/
theorem ushiftRight_one_low_zeros {v : Word} {k : Nat} (h : ∀ j < k + 1, v.getLsbD j = false) :
    ∀ j < k, (v >>> 1).getLsbD j = false := by
  intro j hj
  rw [BitVec.getLsbD_ushiftRight]
  exact h (1 + j) (by omega)

/-- Settles O33: the step is linear, its inverse makes it a bijection, and on an even word it is a shift. -/
theorem oneBitStepIsLinearAndBijective : Obligations.OneBitStepIsLinearAndBijective := by
  refine ⟨fun _ => rfl, rfl, shr1_xor, shr1_bijective, shr1_getLsbD_15, fun v => (unshr1_shr1 v).symm,
    fun v k hk hlow => ?lowZeros, rfl, rfl, rfl, rfl⟩
  case lowZeros =>
    have hshift : shr1 v = v >>> 1 := shr1_of_even (hlow 0 hk)
    refine ⟨hshift, ?_⟩
    rw [hshift]
    exact ushiftRight_one_low_zeros fun j hj => hlow j (by omega)

end Sys2Proof.Machine
end

section
/-! PROOFS. The two forms of the update agree, and its laws (spec/41_update.md R56, R59, R60): O34, O35, O36. -/

namespace Sys2Proof.Machine

/-! The two bytes of a zero-extended byte and of a shift by 8. -/

@[simp] theorem lowByte_zext16 (b : Byte) : lowByte (zext16 b) = b := by
  rw [lowByte, zext16, BitVec.extractLsb'_setWidth_of_le (by decide)]
  exact BitVec.extractLsb'_eq_self

@[simp] theorem highByte_zext16 (b : Byte) : highByte (zext16 b) = 0#8 := by
  ext k hk
  simp [highByte, zext16]

@[simp] theorem lowByte_shiftLeft_eight (v : Word) : lowByte (v <<< 8) = 0#8 := by
  ext k hk
  simp [lowByte, hk]

@[simp] theorem highByte_shiftLeft_eight (v : Word) : highByte (v <<< 8) = lowByte v := by
  ext k hk
  have h16 : 8 + k < 16 := by omega
  simp [highByte, lowByte, -BitVec.getLsbD_eq_getElem, h16]

@[simp] theorem lowByte_ushiftRight_eight (v : Word) : lowByte (v >>> 8) = highByte v := by
  ext k hk
  simp [lowByte, highByte]

@[simp] theorem highByte_ushiftRight_eight (v : Word) : highByte (v >>> 8) = 0#8 := by
  ext k hk
  have h16 : 16 ≤ 8 + (8 + k) := by omega
  simp [highByte, BitVec.getLsbD_of_ge _ _ h16]

/-- `CRC >> 8` is the zero-extended high byte (R55). -/
theorem ushiftRight_eight (a : Word) : a >>> 8 = zext16 (highByte a) := word_eq_of_bytes (by simp) (by simp)

/-- The split `H XOR L` of R59: the high byte of the accumulator in its place, and the index of the table entry. -/
theorem xor_zext16 (a : Word) (b : Byte) : a ^^^ zext16 b = zext16 (highByte a) <<< 8 ^^^ zext16 (tableIndex a b) :=
  word_eq_of_bytes (by simp [highByte_xor]) (by simp [lowByte_xor, tableIndex])

/-- On a word whose low `k` bits are zero, `k` one-bit steps are a plain shift (R57 (d), `k` times). -/
theorem shrSteps_of_low_zeros {k : Nat} {v : Word} (h : ∀ j < k, v.getLsbD j = false) : shrSteps k v = v >>> k := by
  induction k generalizing v with
  | zero => rw [shrSteps, BitVec.ushiftRight_zero]
  | succ k ih =>
    rw [shrSteps, shr1_of_even (h 0 k.succ_pos), ih (ushiftRight_one_low_zeros h), ← BitVec.shiftRight_add,
      Nat.add_comm]

/-- Eight one-bit steps move a high byte down. -/
theorem shrSteps_eight_high (h : Byte) : shrSteps 8 (zext16 h <<< 8) = zext16 h := by
  have hlow : ∀ j < 8, (zext16 h <<< 8).getLsbD j = false := fun j hj => by simp [BitVec.getLsbD_shiftLeft, hj]
  rw [shrSteps_of_low_zeros hlow]
  exact word_eq_of_bytes (by simp) (by simp)

/-- The two forms of the update agree (R59): eight one-bit steps shift the high byte down and turn the low byte, with the
message byte XORed into it, into its table entry. -/
theorem updSerial_eq_upd (a : Word) (b : Byte) : updSerial a b = upd a b :=
  calc updSerial a b
    _ = shrSteps 8 (zext16 (highByte a) <<< 8) ^^^ shrSteps 8 (zext16 (tableIndex a b)) := by
      rw [updSerial, xor_zext16, shrSteps_xor]
    _ = zext16 (highByte a) ^^^ memRead (tableIndex a b) := by rw [shrSteps_eight_high, memRead_eq_tableGen, tableGen]
    _ = upd a b := by rw [upd, ushiftRight_eight]

/-- The update as eight one-bit steps on the accumulator with the byte XORed in: every law of R60 is one of the steps'. -/
theorem upd_eq_shrSteps (a : Word) (b : Byte) : upd a b = shrSteps 8 (a ^^^ zext16 b) := (updSerial_eq_upd a b).symm

/-- Any number of one-bit steps is a bijection. -/
theorem shrSteps_bijective (n : Nat) : Function.Bijective (shrSteps n) := by
  induction n with
  | zero => exact Function.bijective_id
  | succ n ih => exact ih.comp shr1_bijective

/-- Different bytes have different zero extensions. -/
theorem zext16_injective : Function.Injective zext16 := Function.LeftInverse.injective lowByte_zext16

/-- The byte only ever enters by XOR into the low byte (R60 (a)). -/
theorem upd_eq_upd_xor_zero (a : Word) (b : Byte) : upd a b = upd (a ^^^ zext16 b) 0x00#8 := by
  have hzero : zext16 0x00#8 = 0x0000#16 := rfl
  rw [upd_eq_shrSteps, upd_eq_shrSteps, hzero, BitVec.xor_zero]

/-- The update is linear over XOR in the pair of accumulator and byte (R60 (b)). -/
theorem upd_xor (a a' : Word) (b b' : Byte) : upd (a ^^^ a') (b ^^^ b') = upd a b ^^^ upd a' b' := by
  have hpair : a ^^^ a' ^^^ zext16 (b ^^^ b') = (a ^^^ zext16 b) ^^^ (a' ^^^ zext16 b') := by
    rw [zext16, BitVec.setWidth_xor]
    ac_rfl
  simp only [upd_eq_shrSteps, hpair, shrSteps_xor]

/-- For a fixed byte the update is a bijection of the accumulator values (R60 (c)). -/
theorem upd_left_bijective (b : Byte) : Function.Bijective fun a => upd a b := by
  refine Finite.injective_iff_bijective.mp fun a a' h => ?_
  simp only [upd_eq_shrSteps] at h
  exact (BitVec.xor_left_inj _).mp ((shrSteps_bijective 8).injective h)

/-- For a fixed accumulator different bytes give different results (R60 (d)). -/
theorem upd_right_injective (a : Word) : Function.Injective (upd a) := by
  intro b b' h
  simp only [upd_eq_shrSteps] at h
  exact zext16_injective ((BitVec.xor_right_inj _).mp ((shrSteps_bijective 8).injective h))

/-- The accumulator's own low byte selects entry 0, so the update just shifts (R60 (e)). -/
theorem upd_lowByte (a : Word) : upd a (lowByte a) = a >>> 8 := by
  have hentry : memRead 0x00#8 = 0x0000#16 := rfl
  rw [upd, tableIndex, BitVec.xor_self, hentry, BitVec.xor_zero]

/-- A change of the high byte passes straight through (R60 (f)): linearity, and eight steps on the high byte alone. -/
theorem upd_xor_high (a : Word) (b h : Byte) : upd (a ^^^ zext16 h <<< 8) b = upd a b ^^^ zext16 h := by
  have hmove : a ^^^ zext16 h <<< 8 ^^^ zext16 b = a ^^^ zext16 b ^^^ zext16 h <<< 8 := by ac_rfl
  rw [upd_eq_shrSteps, hmove, shrSteps_xor, shrSteps_eight_high, ← upd_eq_shrSteps]

/-- Settles O34, by the split of the accumulator that R59 makes. -/
theorem updateFormsAgree : Obligations.UpdateFormsAgree := updSerial_eq_upd

/-- Settles O35, one law of R60 after the other. -/
theorem updateObeysItsAlgebra : Obligations.UpdateObeysItsAlgebra :=
  ⟨upd_eq_upd_xor_zero, upd_xor, rfl, upd_left_bijective, upd_right_injective, upd_lowByte, upd_xor_high⟩

/-- Settles O36: the shift leaves no high byte, and the low byte it brings in is the old high byte. -/
theorem updateBytesComeFromTheTableEntry : Obligations.UpdateBytesComeFromTheTableEntry :=
  fun a b => ⟨highByte_ushiftRight_eight a, highByte_upd a b, lowByte_upd a b⟩

end Sys2Proof.Machine
end

section
/-! PROOFS. `UPD` (spec/41_update.md R55), and the bit-serial update edge by edge (R58): O13, O54. -/

namespace Sys2Proof.Machine

/-- The words from `0x200` to `0x2FF` are those of `UPD`, with the byte in the data field (R55). -/
theorem decode_upd {w : CommandWord} (hlo : 0x200 ≤ w.toNat) (hhi : w.toNat ≤ 0x2FF) :
    decode w = .upd (BitVec.ofNat 8 (w.toNat - 0x200)) := by
  have hop : w.toNat / 256 = 2 := by omega
  have hdata : w.toNat % 256 = w.toNat - 0x200 := by omega
  rw [decode_eq_decodeFields, opField_eq_ofNat, hop, dField_eq_ofNat, hdata]
  rfl

/-- The number of the word of `UPD d` (R55). -/
theorem encode_upd_toNat (d : Byte) : (encode (.upd d)).toNat = 0x200 + d.toNat := by
  have hd := d.isLt
  rw [encode, BitVec.toNat_add, BitVec.toNat_setWidth]
  simp only [BitVec.toNat_ofNat]
  omega

/-- Settles O13: `UPD` is decoded from its two fields, and its effect is the table form of the update. -/
theorem updFoldsTheByteByOneTableLookup : Obligations.UpdFoldsTheByteByOneTableLookup := by
  refine ⟨fun w => decode_upd, encode_upd_toNat, fun d s => exec_eq_next_commandEffect (.upd d) s, fun _ _ => rfl,
    ushiftRight_eight, fun s hs => ?fresh⟩
  case fresh =>
    rw [exec_eq_next_commandEffect, commandEffect, hs]
    rfl

/-- A bit-serial update of `v` in progress, `k` shift edges after its accepting edge; finished when `k` is 8 (R58). -/
def ClockState.shifted (c : ClockState) (v : Word) (k : Nat) : ClockState :=
  { c with crc := shrSteps k v, bitcnt := BitVec.ofNat 4 (8 - k), busy := decide (k < 8), rsp := none }

/-- The accepting edge of `UPD d` begins the update of `CRC XOR zext(d)` (R58). -/
theorem edge_upd_bitSerial {c : ClockState} {p : Pins} {d : Byte} (hacc : accepts .bitSerial c p = true)
    (hd : decode p.cmd = .upd d) : edge .bitSerial c p = c.shifted (c.crc ^^^ zext16 d) 0 := by
  rw [edge_accepted hacc, acceptEdge, hd]
  rfl

/-- The engine is ready again when all eight shift edges are done, and not before (R37, R58). -/
theorem cmdReady_shifted (c : ClockState) (v : Word) (k : Nat) : cmdReady .bitSerial (c.shifted v k) = !decide (k < 8) := rfl

/-- While it is not ready the engine accepts nothing. -/
theorem accepts_shifted {k : Nat} (hk : k < 8) (c : ClockState) (v : Word) (p : Pins) :
    accepts .bitSerial (c.shifted v k) p = false := by
  simp [accepts, cmdReady_shifted, hk]

/-- `BITCNT` counts down from 8, and `BUSY`, which says that it is not 0, falls at the eighth shift. -/
theorem bitcnt_after_shift : ∀ k < 8, BitVec.ofNat 4 (8 - k) - 1#4 = BitVec.ofNat 4 (8 - (k + 1)) ∧
    (BitVec.ofNat 4 (8 - (k + 1)) != 0#4) = decide (k + 1 < 8) := by decide

/-- An edge without reset while the update is in progress makes one shift, whatever else is on the pins. -/
theorem edge_shifted {k : Nat} (hk : k < 8) (c : ClockState) (v : Word) {p : Pins} (hrst : p.rst = false) :
    edge .bitSerial (c.shifted v k) p = c.shifted v (k + 1) := by
  obtain ⟨hbitcnt, hbusy⟩ := bitcnt_after_shift k hk
  have hcrc : shrSteps (k + 1) v = shr1 (shrSteps k v) := shrSteps_add k 1 v
  have hnotReady : cmdReady .bitSerial (c.shifted v k) = false := by simp [cmdReady_shifted, hk]
  rw [edge_not_accepted hrst (accepts_shifted hk c v p), hnotReady]
  simp only [Bool.false_eq_true, if_false, shiftEdge, ClockState.shifted, hbitcnt, hbusy, hcrc]

/-- Edges without reset, no more than the update still takes, are as many shifts, and nothing is accepted at them. -/
theorem runEdges_shifted (c : ClockState) (v : Word) {ps : List Pins} {k : Nat} (hlen : k + ps.length ≤ 8)
    (hrst : ∀ q ∈ ps, q.rst = false) :
    runEdges .bitSerial (c.shifted v k) ps = c.shifted v (k + ps.length) ∧
      acceptedEvents .bitSerial (c.shifted v k) ps = [] := by
  induction ps generalizing k with
  | nil => exact ⟨rfl, rfl⟩
  | cons p ps ih =>
    obtain ⟨hp, hps⟩ := List.forall_mem_cons.mp hrst
    rw [List.length_cons] at hlen ⊢
    have hk : k < 8 := by omega
    obtain ⟨hrun, hevents⟩ := ih (k := k + 1) (by omega) hps
    rw [runEdges, acceptedEvents, edge_shifted hk c v hp, hrun, hevents, accepts_shifted hk, hp]
    exact ⟨congrArg _ (by omega), rfl⟩

/-- Settles O54: the accepting edge begins the update, and each of the eight edges after it makes one shift. -/
theorem bitSerialUpdateTakesEightShiftEdges : Obligations.BitSerialUpdateTakesEightShiftEdges := by
  refine ⟨fun _ _ => rfl, fun c p d ps hacc hd hlen hrst => ?edges, rfl⟩
  case edges =>
    have haccepting := edge_upd_bitSerial hacc hd
    have hrun (k : Nat) (hk : k ≤ 8) :
        runEdges .bitSerial c (p :: ps.take k) = c.shifted (c.crc ^^^ zext16 d) k := by
      have hlenTake : (ps.take k).length = k := List.length_take_of_le (hlen ▸ hk)
      obtain ⟨h, -⟩ := runEdges_shifted c (c.crc ^^^ zext16 d) (ps := ps.take k) (k := 0) (by omega)
        fun q hq => hrst q (List.mem_of_mem_take hq)
      rw [runEdges, haccepting, h, hlenTake, Nat.zero_add]
    obtain ⟨hwhole, hevents⟩ := runEdges_shifted c (c.crc ^^^ zext16 d) (k := 0) (by omega) hrst
    refine ⟨haccepting, fun k hk => ⟨hrun k hk, ?ready⟩, ?result, ?events⟩
    case ready => rw [hrun k hk, cmdReady_shifted, ← decide_not]; exact decide_eq_decide.mpr (by omega)
    case result => rw [runEdges, haccepting, hwhole, hlen]; rfl
    case events => simp [acceptedEvents, haccepting, hevents, hacc, (accepts_iff.mp hacc).1]

end Sys2Proof.Machine
end

section
/-! PROOFS. The read commands `RD16`, `RDLO` and `RDHI` (spec/42_read.md R70, R71, R72): O14, O15, O16. -/

namespace Sys2Proof.Machine

/-- The 256 words from `256 * op` on have opcode `op`, whatever their data field (R38). -/
theorem decode_of_opcode_range {w : CommandWord} {op : Nat} (hlo : 256 * op ≤ w.toNat) (hhi : w.toNat ≤ 256 * op + 255) :
    decode w = decodeFields (BitVec.ofNat 3 op) (dField w) := by
  have hop : w.toNat / 256 = op := by omega
  rw [decode_eq_decodeFields, opField_eq_ofNat, hop]

/-- The zero-extended low byte is the remainder of the accumulator by 256 (R71). -/
theorem zext16_lowByte_eq_ofNat (a : Word) : zext16 (lowByte a) = BitVec.ofNat 16 (a.toNat % 256) := by
  apply BitVec.eq_of_toNat_eq
  simp [zext16, lowByte]

/-- The zero-extended high byte is the quotient of the accumulator by 256 (R72). -/
theorem zext16_highByte_eq_ofNat (a : Word) : zext16 (highByte a) = BitVec.ofNat 16 (a.toNat / 256) := by
  rw [← ushiftRight_eight]
  apply BitVec.eq_of_toNat_eq
  rw [BitVec.toNat_ushiftRight, BitVec.toNat_ofNat, Nat.shiftRight_eq_div_pow]
  omega

/-- `RDLO` responds with `CRC` modulo 256 and changes nothing else (R71). -/
theorem exec_rdlo (s : State) :
    exec .rdlo s = .next { s with responses := s.responses ++ [BitVec.ofNat 16 (s.crc.toNat % 256)] } := by
  rw [exec_eq_next_commandEffect, commandEffect, zext16_lowByte_eq_ofNat, State.respond]

/-- `RDHI` responds with `CRC` divided by 256 and changes nothing else (R72). -/
theorem exec_rdhi (s : State) :
    exec .rdhi s = .next { s with responses := s.responses ++ [BitVec.ofNat 16 (s.crc.toNat / 256)] } := by
  rw [exec_eq_next_commandEffect, commandEffect, zext16_highByte_eq_ofNat, State.respond]

/-- Settles O14: `RD16` responds with the accumulator as it stands, so after `INIT` or reset with `0xFFFF`, and leaves it for
the next read. -/
theorem rd16RespondsWithTheAccumulator : Obligations.Rd16RespondsWithTheAccumulator := by
  refine ⟨fun w hlo hhi => decode_of_opcode_range (op := 3) hlo hhi, rfl,
    fun s => exec_eq_next_commandEffect .rd16 s, fun s hr => ⟨?afterInit, ?afterReset, ?twice⟩⟩
  case afterInit => exact runEvents_present hr [.init, .rd16]
  case afterReset =>
    rw [runEvents_reset]
    exact runEvents_present (takeReset_resetSeen s) [.rd16]
  case twice =>
    have hresponses : s.responses ++ [s.crc] ++ [s.crc] = s.responses ++ [s.crc, s.crc] := List.append_assoc ..
    rw [runEvents_present hr, ← hresponses]
    rfl

/-- Settles O15: the response is the zero-extended low byte, that is the remainder by 256. -/
theorem rdloRespondsWithTheLowByte : Obligations.RdloRespondsWithTheLowByte := by
  refine ⟨fun w hlo hhi => decode_of_opcode_range (op := 4) hlo hhi, rfl, exec_rdlo, fun s hs => ?rulesExample⟩
  case rulesExample =>
    rw [exec_rdlo, hs]
    rfl

/-- Settles O16: the response is the zero-extended high byte, that is the quotient by 256 and also `CRC >> 8`. -/
theorem rdhiRespondsWithTheHighByte : Obligations.RdhiRespondsWithTheHighByte := by
  refine ⟨fun w hlo hhi => decode_of_opcode_range (op := 5) hlo hhi, rfl, exec_rdhi, fun s => ?shift,
    fun s hs => ?rulesExample⟩
  case shift => rw [exec_rdhi, ushiftRight_eight, zext16_highByte_eq_ofNat]
  case rulesExample =>
    rw [exec_rdhi, hs]
    rfl

end Sys2Proof.Machine
end

section
/-! PROOFS. Whole messages on the machine (spec/43_sequences.md R78, R80, R86; spec/60_exceptions.md R97): O37, O38, O45. -/

namespace Sys2Proof.Machine

/-- A message fed in two parts is fed in one (R79 (e)). -/
theorem foldCrc_append (m m' : List Byte) (a : Word) : foldCrc (m ++ m') a = foldCrc m' (foldCrc m a) := by
  induction m generalizing a with
  | nil => rfl
  | cons b m ih => exact ih (upd a b)

/-- The CRC of a message goes on from the CRC of its first part (R86). -/
theorem crcOf_append (m m' : List Byte) : crcOf (m ++ m') = foldCrc m' (crcOf m) := foldCrc_append m m' initValue

/-- Feeding a message and then reading is reading with the message folded in. -/
theorem foldl_commandEffect_upd_append (m : List Byte) (reads : List Instr) (s : State) :
    (m.map Instr.upd ++ reads).foldl (fun t i => commandEffect i t) s =
      reads.foldl (fun t i => commandEffect i t) (s.setCrc (foldCrc m s.crc)) := by
  rw [List.foldl_append, foldl_commandEffect_upd]

/-- The run over the bytes of a message and then `RD16`, without `INIT`, responds with the fold from the old accumulator
(R86). -/
theorem runEvents_upds_rd16 {s : State} (hr : s.resetSeen = true) (m : List Byte) :
    runEvents s (present (m.map .upd ++ [.rd16])) =
      .next { s with crc := foldCrc m s.crc, events := [], responses := s.responses ++ [foldCrc m s.crc] } := by
  rw [runEvents_present hr, foldl_commandEffect_upd_append]
  rfl

/-- The run over `COMPUTE m` responds with `crc(m)` (R78). -/
theorem runEvents_computeSeq {s : State} (hr : s.resetSeen = true) (m : List Byte) :
    runEvents s (present (computeSeq m)) =
      .next { s with crc := crcOf m, events := [], responses := s.responses ++ [crcOf m] } :=
  (runEvents_command hr 0x100#11 _).trans (runEvents_upds_rd16 (s := s.setCrc initValue) hr m)

/-- The run over `APPEND m` responds with the two bytes of `crc(m)`, the low one first (R80). -/
theorem runEvents_appendSeq {s : State} (hr : s.resetSeen = true) (m : List Byte) :
    runEvents s (present (appendSeq m)) =
      .next { s with crc := crcOf m, events := [],
                     responses := s.responses ++ [zext16 (lowByte (crcOf m)), zext16 (highByte (crcOf m))] } := by
  rw [runEvents_present hr, List.append_cons, appendSeq, List.foldl_cons, foldl_commandEffect_upd_append]
  rfl

/-- The run over `COMPUTE m` and a second message without `INIT` responds with `crc(m)` and then with the CRC of both
together (R86). -/
theorem runEvents_computeSeq_chained {s : State} (hr : s.resetSeen = true) (m m' : List Byte) :
    runEvents s (present (computeSeq m) ++ present (m'.map .upd ++ [.rd16])) =
      .next { s with crc := crcOf (m ++ m'), events := [], responses := s.responses ++ [crcOf m, crcOf (m ++ m')] } := by
  rw [runEvents_append (runEvents_computeSeq hr m), List.append_cons s.responses _ [_], crcOf_append]
  refine runEvents_upds_rd16 ?resetSeen m'
  exact hr

/-- A claim about the results of a run that leaves the flag as it was: what the run ends in is final if the start state is
trusted, so only the claim itself is left to show (R97). -/
theorem ResultClaim.of_run_keeping_err {s : State} {es : List Event} {Q : State → Prop} {c : Word} {rs : List Word}
    (hrun : s.resetSeen = true → runEvents s es = .next { s with crc := c, events := [], responses := rs })
    (hq : Q { s with crc := c, events := [], responses := rs }) : ResultClaim s es Q := by
  intro htrusted
  obtain ⟨hr, herr⟩ := s.trusted_iff.mp htrusted
  exact ⟨_, hrun hr, (State.isFinal_iff _).mpr ⟨rfl, hr, herr⟩, hq⟩

/-- The words of a message with its reads: `INIT`, one per byte, the reads (R45). -/
theorem length_present_message (m : List Byte) (reads : List Instr) :
    (present (.init :: (m.map .upd ++ reads))).length = m.length + reads.length + 1 := by
  simp [present]

/-- The host reads off the two responses of `APPEND` the two bytes of the CRC, and puts the low one first (R25, R80). -/
theorem frameOf_zext16 (m : List Byte) (lo hi : Byte) : frameOf m (zext16 lo) (zext16 hi) = m ++ [lo] ++ [hi] := by
  rw [frameOf, lowByte_zext16, lowByte_zext16, List.append_assoc, List.singleton_append]

/-- A zero-extended byte is below 256. -/
theorem zext16_toNat_lt (b : Byte) : (zext16 b).toNat < 256 := by
  rw [zext16, BitVec.toNat_setWidth_of_le (by decide)]
  exact b.isLt

/-- Settles O37: the run of `COMPUTE`, and the claim about its result. -/
theorem computeRespondsWithTheCrcOfTheMessage : Obligations.ComputeRespondsWithTheCrcOfTheMessage :=
  ⟨fun _ => rfl, fun _ _ _ => rfl, fun _ => rfl, fun m => length_present_message m [.rd16],
    fun _ m hr => runEvents_computeSeq hr m,
    fun _ m => ResultClaim.of_run_keeping_err (fun hr => runEvents_computeSeq hr m) ⟨rfl, rfl⟩, rfl, by decide⟩

/-- Settles O38: the run of `APPEND`, and the frame from its two zero-extended responses. -/
theorem appendRespondsWithTheCrcBytesLowFirst : Obligations.AppendRespondsWithTheCrcBytesLowFirst := by
  refine ⟨fun m => length_present_message m [.rdlo, .rdhi], fun s m hr => ?run, fun s m => ?claim,
    fun address function payload => ?length, by decide⟩
  case run =>
    rw [← zext16_lowByte_eq_ofNat, ← zext16_highByte_eq_ofNat]
    exact ⟨runEvents_appendSeq hr m, frameOf_zext16 m _ _⟩
  case claim =>
    exact ResultClaim.of_run_keeping_err (fun hr => runEvents_appendSeq hr m)
      ⟨_, _, rfl, frameOf_zext16 m _ _, zext16_toNat_lt _, zext16_toNat_lt _⟩
  case length =>
    rw [withCrc, coveredBytes, List.length_append, List.length_cons, List.length_cons, Nat.add_comm 2]
    rfl

/-- Settles O45: the second message continues the fold where `COMPUTE` left it. -/
theorem messagesChainWithoutInit : Obligations.MessagesChainWithoutInit :=
  ⟨fun _ m m' hr => runEvents_computeSeq_chained hr m m',
    fun _ m m' => ResultClaim.of_run_keeping_err (fun hr => runEvents_computeSeq_chained hr m m') ⟨rfl, rfl⟩,
    by decide, by decide⟩

end Sys2Proof.Machine
end

section
/-! PROOFS. What whole runs keep (spec/60_exceptions.md R97, spec/43_sequences.md R79 (e), R86): O22, O47. -/

namespace Sys2Proof.Machine

/-- The state an event leaves, after the first reset: what `step` answers, as one function. -/
def eventEffect (s : State) : Event → State
  | .reset => takeReset s
  | .cmd w => commandEffect (decode w) s

/-- No event takes back the record of the reset. -/
theorem eventEffect_resetSeen {s : State} (hr : s.resetSeen = true) (e : Event) : (eventEffect s e).resetSeen = true := by
  cases e with
  | reset => rfl
  | cmd w => exact (commandEffect_resetSeen (decode w) s).trans hr

/-- After the first reset a run over any events completes: it is their effects one after another (R30, R91). -/
theorem runEvents_eq_foldl_eventEffect {s : State} (hr : s.resetSeen = true) (es : List Event) :
    runEvents s es = .next ((es.foldl eventEffect s).withEvents []) := by
  induction es generalizing s with
  | nil => rfl
  | cons e es ih =>
    have hrun : runEvents s (e :: es) = runEvents (eventEffect s e) es := by
      cases e with
      | reset => exact runEvents_reset s es
      | cmd w => exact runEvents_command hr w es
    rw [hrun, List.foldl_cons, ih (eventEffect_resetSeen hr e)]

/-- No run takes back the record of the reset. -/
theorem foldl_eventEffect_resetSeen {s : State} (hr : s.resetSeen = true) (es : List Event) :
    (es.foldl eventEffect s).resetSeen = true := by
  induction es generalizing s with
  | nil => exact hr
  | cons e es ih => exact ih (eventEffect_resetSeen hr e)

/-! The flag. -/

/-- The illegal words are those from `0x600` on (R41). -/
theorem isLegal_eq_false_iff {w : CommandWord} : isLegal w = false ↔ 0x600 ≤ w.toNat := by
  have hop : isLegal w = decide (opField w < 6#3) := rfl
  rw [hop, decide_eq_false_iff_not, opField_eq_ofNat, BitVec.lt_def, BitVec.toNat_ofNat, BitVec.toNat_ofNat]
  omega

/-- A command sets the flag when its word is illegal and leaves it otherwise (R13, R90). -/
theorem commandEffect_decode_err (w : CommandWord) (s : State) :
    (commandEffect (decode w) s).err = (s.err || !isLegal w) := by
  cases hlegal : isLegal w with
  | true =>
    obtain ⟨h6, h7⟩ := decodeFields_legal (of_decide_eq_true hlegal) (dField w)
    exact (commandEffect_err h6 h7 s).trans (Bool.or_false _).symm
  | false =>
    rw [commandEffect_decode_reserved (isLegal_eq_false_iff.mp hlegal)]
    exact (Bool.or_true _).symm

/-- After a run the flag says whether an illegal command has been accepted since the last reset (R97). -/
theorem foldl_eventEffect_err (es : List Event) (s : State) :
    (es.foldl eventEffect s).err = illegalSinceReset s.err es := by
  induction es generalizing s with
  | nil => rfl
  | cons e es ih =>
    rw [List.foldl_cons, ih]
    cases e with
    | reset => rfl
    | cmd w => rw [eventEffect, commandEffect_decode_err, illegalSinceReset]

/-- Where a run ends is final exactly when no illegal command stands since the last reset (R97). -/
theorem foldl_eventEffect_trusted_iff {s : State} (hr : s.resetSeen = true) (es : List Event) :
    (es.foldl eventEffect s).trusted = true ↔ illegalSinceReset s.err es = false := by
  rw [State.trusted_iff, foldl_eventEffect_err, and_iff_right (foldl_eventEffect_resetSeen hr es)]

/-- The flag a run began with can show in the flag alone: no event reads it (R13). -/
theorem foldl_eventEffect_ignores_err (es : List Event) (s : State) (b : Bool) :
    ∃ b', es.foldl eventEffect { s with err := b } = { es.foldl eventEffect s with err := b' } := by
  induction es generalizing s b with
  | nil => exact ⟨b, rfl⟩
  | cons e es ih =>
    have hstep : ∃ c, eventEffect { s with err := b } e = { eventEffect s e with err := c } := by
      cases e with
      | reset => exact ⟨false, rfl⟩
      | cmd w => exact ⟨_, commandEffect_ignores_err (decode w) s b⟩
    obtain ⟨c, hc⟩ := hstep
    rw [List.foldl_cons, hc]
    exact ih (eventEffect s e) c

/-- Without reserved words the flag stays clear (R107). -/
theorem illegalSinceReset_of_avoidsReserved {es : List Event} (h : avoidsReserved es = true) :
    illegalSinceReset false es = false := by
  induction es with
  | nil => rfl
  | cons e es ih =>
    obtain ⟨he, hes⟩ : (!e.isIllegal) = true ∧ avoidsReserved es = true := Bool.and_eq_true_iff.mp h
    cases e with
    | reset => exact ih hes
    | cmd w =>
      have hlegal : (!isLegal w) = false := (Bool.not_eq_true' _).mp he
      rw [illegalSinceReset, hlegal]
      exact ih hes

/-! The responses. -/

/-- An event gives one response if it is a read command, and none otherwise (R40). -/
theorem eventEffect_responses (s : State) (e : Event) :
    ∃ rs, (eventEffect s e).responses = s.responses ++ rs ∧ rs.length = readsIn [e] := by
  cases e with
  | reset => exact ⟨[], (List.append_nil _).symm, rfl⟩
  | cmd w =>
    rw [eventEffect, readsIn, List.filter_singleton, Event.isRead]
    cases decode w with
    | rd16 | rdlo | rdhi => exact ⟨[_], rfl, rfl⟩
    | nop | init | upd | reserved6 | reserved7 => exact ⟨[], (List.append_nil _).symm, rfl⟩

/-- A run appends one response per read command to those delivered before (R40). -/
theorem foldl_eventEffect_responses (es : List Event) (s : State) :
    ∃ rs, (es.foldl eventEffect s).responses = s.responses ++ rs ∧ rs.length = readsIn es := by
  induction es generalizing s with
  | nil => exact ⟨[], (List.append_nil _).symm, rfl⟩
  | cons e es ih =>
    obtain ⟨rs, hrs, hlen⟩ := eventEffect_responses s e
    obtain ⟨rs', hrs', hlen'⟩ := ih (eventEffect s e)
    have hreads : readsIn (e :: es) = readsIn [e] + readsIn es := by
      rw [← List.singleton_append, readsIn, List.filter_append, List.length_append]
      rfl
    exact ⟨rs ++ rs', by rw [List.foldl_cons, hrs', hrs, List.append_assoc],
      by rw [List.length_append, hlen, hlen', hreads]⟩

/-! The accumulator. -/

/-- If the accumulator is the CRC of the open message, it is so after the next event (R52, R79 (e), R86). -/
theorem eventEffect_crc {s : State} {m : List Byte} (h : s.crc = crcOf m) (e : Event) :
    (eventEffect s e).crc = crcOf (feedEvent m e) := by
  cases e with
  | reset => rfl
  | cmd w =>
    rw [eventEffect, feedEvent]
    cases decode w with
    | init => rfl
    | upd d => rw [crcOf_append, ← h]; rfl
    | nop | rd16 | rdlo | rdhi | reserved6 | reserved7 => exact h

/-- And so after any run. -/
theorem foldl_eventEffect_crc {s : State} {m : List Byte} (h : s.crc = crcOf m) (es : List Event) :
    (es.foldl eventEffect s).crc = crcOf (openMessage m es) := by
  induction es generalizing s m with
  | nil => exact h
  | cons e es ih => exact ih (eventEffect_crc h e)

/-- A host that resets and computes again ends, whatever ran before, in a final state with `crc(m)` as the accumulator and
as the last response (R78, R97, R100). -/
theorem runEvents_reset_computeSeq {s : State} (hr : s.resetSeen = true) (es : List Event) (m : List Byte) :
    ∃ t rs, runEvents s (es ++ .reset :: present (computeSeq m)) = .next t ∧ t.isFinal = true ∧ t.crc = crcOf m ∧
      rs.length = readsIn es ∧ t.responses = s.responses ++ rs ++ [crcOf m] := by
  obtain ⟨rs, hrs, hlen⟩ := foldl_eventEffect_responses es s
  have hbefore := runEvents_append (runEvents_eq_foldl_eventEffect hr es) (.reset :: present (computeSeq m))
  have hafter := (runEvents_reset _ _).trans (runEvents_computeSeq (takeReset_resetSeen (es.foldl eventEffect s)) m)
  exact ⟨_, rs, hbefore.trans hafter, (State.isFinal_iff _).mpr ⟨rfl, rfl, rfl⟩, rfl, hlen,
    congrArg (· ++ [crcOf m]) hrs⟩

/-- Settles O22: the flag along a run, by the effects of its events, and the restart of a host after a fault. -/
theorem errRecordsAnIllegalCommandSinceReset : Obligations.ErrRecordsAnIllegalCommandSinceReset := by
  refine ⟨fun s es hr => ?record, fun s hs => ?again, fun s t hs hhead hstep => ?sticky,
    fun s es m hr => runEvents_reset_computeSeq hr es m⟩
  case record =>
    refine ⟨_, runEvents_eq_foldl_eventEffect hr es, foldl_eventEffect_err es s, rfl, ?_, fun b => ?_⟩
    · rw [State.withEvents_nil_isFinal, foldl_eventEffect_trusted_iff hr]
    · obtain ⟨b', hb'⟩ := foldl_eventEffect_ignores_err es s b
      refine ⟨_, runEvents_eq_foldl_eventEffect (s := { s with err := b }) hr es, ?_⟩
      rw [hb']
      exact ⟨rfl, rfl⟩
  case again =>
    have hsame : raiseIllegalCommand s = s := by
      rw [raiseIllegalCommand_eq, ← show s.err = true from hs]
    exact ⟨congrArg Host.Outcome.next hsame, congrArg Host.Outcome.next hsame⟩
  case sticky =>
    have ht : t.faulted = true := step_err_sticky hstep hs hhead
    exact ⟨ht, State.faulted_not_isFinal hs, State.faulted_not_isFinal ht⟩

/-- Settles O47: the invariant along a run, and the claim about its result, final since no word of the run is reserved. -/
theorem accumulatorIsTheCrcOfTheOpenMessage : Obligations.AccumulatorIsTheCrcOfTheOpenMessage := by
  refine ⟨fun s m es hr hcrc => ⟨_, runEvents_eq_foldl_eventEffect hr es, foldl_eventEffect_crc hcrc es⟩,
    fun s m es hcrc havoids htrusted => ?claim⟩
  case claim =>
    obtain ⟨hr, herr⟩ := s.trusted_iff.mp htrusted
    refine ⟨_, runEvents_eq_foldl_eventEffect hr es, ?final, foldl_eventEffect_crc hcrc es⟩
    case final =>
      rw [State.withEvents_nil_isFinal, foldl_eventEffect_trusted_iff hr, herr]
      exact illegalSinceReset_of_avoidsReserved havoids

end Sys2Proof.Machine
end

section
/-! PROOFS. What the CRC detects (spec/43_sequences.md R82, R84, R85, R87): O39, O42, O43, O44. -/

namespace Sys2Proof.Machine

/-! Two bytes at once. -/

/-- Feeding two bytes is XORing them in as a little-endian word, then sixteen one-bit steps (R84): the first eight steps move
the second byte from the high byte to where its own update wants it. -/
theorem upd_upd (a : Word) (x y : Byte) : upd (upd a x) y = shrSteps 16 (a ^^^ (zext16 x ^^^ zext16 y <<< 8)) :=
  calc upd (upd a x) y
    _ = shrSteps 8 (shrSteps 8 (a ^^^ zext16 x) ^^^ zext16 y) := by rw [upd_eq_shrSteps, upd_eq_shrSteps]
    _ = shrSteps 8 (shrSteps 8 (a ^^^ zext16 x) ^^^ shrSteps 8 (zext16 y <<< 8)) := by rw [shrSteps_eight_high]
    _ = shrSteps (8 + 8) (a ^^^ zext16 x ^^^ zext16 y <<< 8) := by rw [← shrSteps_xor, shrSteps_add]
    _ = shrSteps 16 (a ^^^ (zext16 x ^^^ zext16 y <<< 8)) := by rw [BitVec.xor_assoc]

/-- Two bytes as a little-endian word are the accumulator exactly when they are its low and its high byte. -/
theorem eq_littleEndian_iff (a : Word) (x y : Byte) :
    a = zext16 x ^^^ zext16 y <<< 8 ↔ x = lowByte a ∧ y = highByte a := by
  have hlo : lowByte (zext16 x ^^^ zext16 y <<< 8) = x := by simp [lowByte_xor]
  have hhi : highByte (zext16 x ^^^ zext16 y <<< 8) = y := by simp [highByte_xor]
  constructor
  · rintro rfl
    exact ⟨hlo.symm, hhi.symm⟩
  · rintro ⟨hx, hy⟩
    exact word_eq_of_bytes (hy.symm.trans hhi.symm) (hx.symm.trans hlo.symm)

/-- One-bit steps leave zero zero (R57 (a)). -/
theorem shrSteps_zero_word (n : Nat) : shrSteps n 0x0000#16 = 0x0000#16 := by
  induction n with
  | zero => rfl
  | succ n ih => exact ih

/-- Two updates end at zero exactly for the two bytes of the accumulator, the low one first (R82, R84): sixteen steps send
only zero to zero. -/
theorem upd_upd_eq_zero_iff (a : Word) (x y : Byte) :
    upd (upd a x) y = 0x0000#16 ↔ x = lowByte a ∧ y = highByte a := by
  rw [upd_upd, ← shrSteps_zero_word 16, (shrSteps_bijective 16).injective.eq_iff, BitVec.xor_eq_zero_iff, eq_littleEndian_iff]

/-- The residue of a frame is zero exactly when its two trailing bytes are the CRC, low byte first (R82). -/
theorem crcOf_append_pair_eq_zero_iff (m : List Byte) (x y : Byte) :
    crcOf (m ++ [x, y]) = 0x0000#16 ↔ x = lowByte (crcOf m) ∧ y = highByte (crcOf m) := by
  rw [crcOf_append]
  exact upd_upd_eq_zero_iff (crcOf m) x y

/-! Differences. -/

/-- Folding a fixed message is injective in the accumulator (R85): each of its updates is. -/
theorem foldCrc_injective (m : List Byte) : Function.Injective (foldCrc m) := by
  induction m with
  | nil => exact Function.injective_id
  | cons b m ih => exact ih.comp (upd_left_bijective b).injective

/-- Messages that differ in one byte have different CRCs (R85): the byte makes a difference, and the bytes after it keep it. -/
theorem crcOf_ne_of_byte_ne (p q : List Byte) {b c : Byte} (h : b ≠ c) : crcOf (p ++ b :: q) ≠ crcOf (p ++ c :: q) := by
  rw [crcOf_append, crcOf_append]
  exact ((foldCrc_injective q).comp (upd_right_injective (crcOf p))).ne h

/-- The fold is linear over XOR in the pair of message and accumulator (R87). -/
theorem foldCrc_zipWith_xor {m m' : List Byte} (hlen : m.length = m'.length) (a a' : Word) :
    foldCrc (List.zipWith (· ^^^ ·) m m') (a ^^^ a') = foldCrc m a ^^^ foldCrc m' a' := by
  induction m generalizing m' a a' with
  | nil =>
    obtain rfl : m' = [] := List.length_eq_zero_iff.mp hlen.symm
    rfl
  | cons b m ih =>
    obtain ⟨b', m', rfl⟩ := List.exists_cons_of_length_eq_add_one hlen.symm
    rw [List.zipWith_cons_cons, foldCrc, upd_xor, ih (Nat.succ.inj hlen), foldCrc, foldCrc]

/-- Settles O42: the step of R84, and that sixteen steps are a bijection. -/
theorem twoBytesAreSixteenSteps : Obligations.TwoBytesAreSixteenSteps :=
  ⟨upd_upd, shrSteps_bijective 16, shrSteps_zero_word 16⟩

/-- Settles O39: every clause on messages is one direction of the residue's equivalence. -/
theorem residueIsZeroExactlyForTheCrcBytes : Obligations.ResidueIsZeroExactlyForTheCrcBytes := by
  refine ⟨fun m => ?zero, fun m x y => (crcOf_append_pair_eq_zero_iff m x y).mp,
    fun m h => ((crcOf_append_pair_eq_zero_iff m _ _).mp h).2, by decide⟩
  case zero =>
    rw [List.append_assoc]
    exact (crcOf_append_pair_eq_zero_iff m _ _).mpr ⟨rfl, rfl⟩

/-- Settles O43: a zero residue would make the two CRCs, which differ, the same two bytes. -/
theorem singleByteChangeIsDetected : Obligations.SingleByteChangeIsDetected := by
  intro p q b c h
  have hne := crcOf_ne_of_byte_ne p q h
  refine ⟨hne, fun hzero => ?_⟩
  obtain ⟨hlo, hhi⟩ := (crcOf_append_pair_eq_zero_iff _ _ _).mp hzero
  exact hne (word_eq_of_bytes hhi hlo)

/-- Settles O44: linearity, with the start values XORed away; zero bytes leave the accumulator zero. -/
theorem crcDifferenceDependsOnMessageDifference : Obligations.CrcDifferenceDependsOnMessageDifference := by
  refine ⟨fun m m' hlen => (foldCrc_zipWith_xor hlen initValue initValue).symm, fun n => ?zeros⟩
  case zeros =>
    induction n with
    | zero => rfl
    | succ n ih => exact ih

end Sys2Proof.Machine
end

section
/-! PROOFS. Checking a frame on the machine (spec/43_sequences.md R83, R88, spec/60_exceptions.md R93): O40, O41. -/

namespace Sys2Proof.Machine

/-- The compare form on the two responses of `APPEND` compares with the bytes of the CRC (R83 (a)). -/
theorem compareVerdict_zext16_iff (lo hi x y : Byte) :
    compareVerdict (zext16 lo) (zext16 hi) x y = true ↔ x = lo ∧ y = hi := by
  rw [compareVerdict, lowByte_zext16, lowByte_zext16, Bool.and_eq_true, beq_iff_eq, beq_iff_eq]
  exact and_congr eq_comm eq_comm

/-- The residue form (R83 (b)). -/
theorem residueVerdict_iff (r : Word) : residueVerdict r = true ↔ r = 0x0000#16 := beq_iff_eq

/-- The residue form judges a frame valid exactly when its stored bytes are the CRC (R82, R83). -/
theorem residueVerdict_crcOf_iff (m : List Byte) (x y : Byte) :
    residueVerdict (crcOf (m ++ [x, y])) = true ↔ x = lowByte (crcOf m) ∧ y = highByte (crcOf m) :=
  (residueVerdict_iff _).trans (crcOf_append_pair_eq_zero_iff m x y)

/-- The frame built from the responses of `APPEND` is judged valid (R88). -/
theorem residueVerdict_frameOf (m : List Byte) :
    residueVerdict (crcOf (frameOf m (zext16 (lowByte (crcOf m))) (zext16 (highByte (crcOf m))))) = true := by
  rw [frameOf, lowByte_zext16, lowByte_zext16]
  exact (residueVerdict_crcOf_iff m _ _).mpr ⟨rfl, rfl⟩

/-- Settles O40: both verdicts say that the stored bytes are the CRC, so they are the same. -/
theorem compareFormAndResidueFormAgree : Obligations.CompareFormAndResidueFormAgree := by
  refine ⟨by decide, by decide, fun s m x y => ⟨?compareClaim, ?residueClaim⟩, fun s m x y hr => ?runs⟩
  case compareClaim =>
    exact ResultClaim.of_run_keeping_err (fun hr => runEvents_appendSeq hr m)
      ⟨_, _, rfl, compareVerdict_zext16_iff _ _ x y⟩
  case residueClaim =>
    exact ResultClaim.of_run_keeping_err (fun hr => runEvents_computeSeq hr (m ++ [x, y]))
      ⟨_, rfl, residueVerdict_crcOf_iff m x y⟩
  case runs =>
    have hcompare := compareVerdict_zext16_iff (lowByte (crcOf m)) (highByte (crcOf m)) x y
    have hlength : (present (checkSeq (m ++ [x, y]))).length = m.length + 4 := by
      rw [checkSeq, computeSeq, length_present_message, List.length_append]
      rfl
    exact ⟨hlength, _, _, _, _, _, runEvents_appendSeq hr m, rfl, rfl, runEvents_computeSeq hr (m ++ [x, y]), rfl, rfl,
      Bool.eq_iff_iff.mpr (hcompare.trans (residueVerdict_crcOf_iff m x y).symm), residueVerdict_iff _, hcompare⟩

/-- Settles O41: the residue of the built frame is zero, in the second run whatever state the first one left. -/
theorem appendedFramePassesCheck : Obligations.AppendedFramePassesCheck := by
  refine ⟨fun s m hr => ?runs, fun s m => ?claim⟩
  case runs =>
    refine ⟨_, _, _, _, _, runEvents_appendSeq hr m, rfl, runEvents_computeSeq ?resetSeen _, rfl, residueVerdict_frameOf m⟩
    exact hr
  case claim =>
    refine ResultClaim.of_run_keeping_err (fun hr => runEvents_appendSeq hr m) ⟨_, _, rfl, ?check⟩
    exact ResultClaim.of_run_keeping_err (fun hr => runEvents_computeSeq hr _) ⟨_, rfl, residueVerdict_frameOf m⟩

end Sys2Proof.Machine
end

section
/-! PROOFS. The one exception (spec/60_exceptions.md R90, R91, R94; spec/30_encoding.md R41): O17, O18, O52. -/

namespace Sys2Proof.Machine

/-- No word below `0x600` decodes to a reserved command (R41). -/
theorem decode_not_reserved {w : CommandWord} (h : w.toNat < 0x600) : decode w ≠ .reserved6 ∧ decode w ≠ .reserved7 := by
  have hlegal : isLegal w = true := (Bool.not_eq_false _).mp (mt isLegal_eq_false_iff.mp (by omega))
  exact decodeFields_legal (of_decide_eq_true hlegal) (dField w)

/-- The state that `exec` answers is the command's effect. -/
theorem eq_commandEffect_of_exec {i : Instr} {s t : State} (h : exec i s = .next t) : t = commandEffect i s := by
  rw [exec_eq_next_commandEffect] at h
  cases h
  rfl

/-- The one exception is raised by a reserved command (R90, R91). -/
theorem reserved_of_commandEffect_err_ne {i : Instr} {s : State} (h : (commandEffect i s).err ≠ s.err) :
    i = .reserved6 ∨ i = .reserved7 := by
  by_contra hlegal
  obtain ⟨h6, h7⟩ := not_or.mp hlegal
  exact h (commandEffect_err h6 h7 s)

/-- A reserved command sets the flag, whatever it was (R90). -/
theorem commandEffect_reserved_err {i : Instr} (h : i = .reserved6 ∨ i = .reserved7) (s : State) :
    (commandEffect i s).err = true := by
  rcases h with rfl | rfl <;> rfl

/-- The accepting edge of a reserved word sets `err`, keeps the registers and gives no response (R90). -/
theorem acceptEdge_reserved {w : CommandWord} (h : 0x600 ≤ w.toNat) (v : Variant) (c : ClockState) :
    acceptEdge v c w = { c with err := true, rsp := none } := by
  rcases decode_reserved h with h' | h' <;> rw [acceptEdge, h']

/-- The accepting edge of `UPD` leaves the flag (R91). -/
@[simp] theorem updEdge_err (v : Variant) (c : ClockState) (d : Byte) : (updEdge v c d).err = c.err := by
  cases v <;> rfl

/-- An accepting edge raises `err` by the word's opcode alone (R91, R94). -/
theorem acceptEdge_err (v : Variant) (c : ClockState) (w : CommandWord) :
    (acceptEdge v c w).err = (c.err || decide (0x600 ≤ w.toNat)) := by
  by_cases h : 0x600 ≤ w.toNat
  · rw [acceptEdge_reserved h, decide_eq_true h, Bool.or_true]
  · obtain ⟨h6, h7⟩ := decode_not_reserved (not_le.mp h)
    rw [decide_eq_false h, Bool.or_false, acceptEdge]
    cases hw : decode w with
    | reserved6 => exact absurd hw h6
    | reserved7 => exact absurd hw h7
    | upd d => exact updEdge_err v c d
    | nop | init | rd16 | rdlo | rdhi => rfl

/-- At most one event happens at an edge (R94). -/
theorem length_acceptedEvents_singleton_le (v : Variant) (c : ClockState) (p : Pins) :
    (acceptedEvents v c [p]).length ≤ 1 := by
  rw [acceptedEvents_singleton]
  split
  · exact le_rfl
  · split
    · exact le_rfl
    · exact Nat.zero_le 1

/-- Settles O17: the reserved words are those from `0x600` on, and the effect of their two commands is the exception. -/
theorem reservedOpcodesRaiseIllegalCommand : Obligations.ReservedOpcodesRaiseIllegalCommand := by
  refine ⟨fun w => decode_reserved, fun w => decode_not_reserved, fun s => exec_eq_next_commandEffect .reserved6 s,
    fun s => exec_eq_next_commandEffect .reserved7 s, fun i s t h herr => ?raisedBy, fun s w es hr hw => ?goesOn,
    fun v c p hacc hw => ?pins⟩
  case raisedBy =>
    obtain rfl := eq_commandEffect_of_exec h
    exact reserved_of_commandEffect_err_ne herr
  case goesOn => rw [runEvents_command hr, commandEffect_decode_reserved hw]
  case pins => rw [edge_accepted hacc, acceptEdge_reserved hw]

/-- Settles O18: the effect of a command is its next state, and only a reserved one writes the flag. -/
theorem everyCommandCompletesAndLegalOnesNeverRaise : Obligations.EveryCommandCompletesAndLegalOnesNeverRaise := by
  refine ⟨fun i s => ⟨_, exec_eq_next_commandEffect i s⟩, fun i s t h h6 h7 => ?legal, fun i s t h hreserved => ?reserved⟩
  all_goals obtain rfl := eq_commandEffect_of_exec h
  case legal => exact commandEffect_err h6 h7 s
  case reserved => exact commandEffect_reserved_err hreserved s

/-- Settles O52: an edge is a reset, an accepted word, or neither, and each has its event and its effect. -/
theorem resetHasPriorityAtAnEdge : Obligations.ResetHasPriorityAtAnEdge := by
  refine fun v c p => ⟨length_acceptedEvents_singleton_le v c p, fun hrst => ⟨edge_reset hrst, ?resetEvent, ?notAccepted⟩,
    fun hrst hacc => ⟨?commandEvent, edge_accepted hacc, ?err⟩, fun hrst hacc => ⟨?noEvent, edge_not_accepted hrst hacc⟩⟩
  case resetEvent => simp [acceptedEvents_singleton, hrst]
  case notAccepted => simp [accepts, hrst]
  case commandEvent => simp [acceptedEvents_singleton, hrst, hacc]
  case err => rw [edge_accepted hacc, acceptEdge_err]
  case noEvent => simp [acceptedEvents_singleton, hrst, hacc]

end Sys2Proof.Machine
end

section
/-! PROOFS. Results and the flag over whole runs (spec/60_exceptions.md R97, spec/70_reset_and_hazards.md HD8): O23, O59. -/

namespace Sys2Proof.Machine

/-- Without reserved words a run from a trusted state stays trusted (R97, R107). -/
theorem foldl_eventEffect_trusted {s : State} (hs : s.trusted = true) {es : List Event} (h : avoidsReserved es = true) :
    (es.foldl eventEffect s).trusted = true := by
  obtain ⟨hr, herr⟩ := s.trusted_iff.mp hs
  rw [foldl_eventEffect_trusted_iff hr, herr]
  exact illegalSinceReset_of_avoidsReserved h

/-- Such a run ends in a final state. -/
theorem foldl_eventEffect_isFinal {s : State} (hs : s.trusted = true) {es : List Event} (h : avoidsReserved es = true) :
    ((es.foldl eventEffect s).withEvents []).isFinal = true := by
  rw [State.withEvents_nil_isFinal, foldl_eventEffect_trusted hs h]

/-- After the first reset the effect of an event is the reference step function's (R9). -/
theorem eventEffect_eq_afterRef {s : State} (hr : s.resetSeen = true) (e : Event) :
    eventEffect s e = s.afterRef (refExec (s.crc, s.err) e) := by
  cases e with
  | reset => exact takeReset_eq_afterRef s
  | cmd w => exact commandEffect_decode hr w

/-- A step after the first reset leaves the effect of the event it takes. -/
theorem step_withEvents_eventEffect {s : State} (hr : s.resetSeen = true) (e : Event) (es : List Event) :
    step (s.withEvents (e :: es)) = .next ((eventEffect s e).withEvents es) := by
  rw [step_withEvents_cons (.inl hr), eventEffect_eq_afterRef hr]

/-- The pin `err` is 0 after every event of a run without reserved words from a trusted state (HD8). -/
theorem errTrace_of_avoidsReserved {s : State} (hs : s.trusted = true) {es : List Event} (h : avoidsReserved es = true) :
    errTrace es.length (s.withEvents es) = List.replicate es.length false := by
  induction es generalizing s with
  | nil => rfl
  | cons e es ih =>
    obtain ⟨he, hes⟩ : (!e.isIllegal) = true ∧ avoidsReserved es = true := Bool.and_eq_true_iff.mp h
    have hnext : (eventEffect s e).trusted = true :=
      foldl_eventEffect_trusted hs (es := [e]) (Bool.and_eq_true_iff.mpr ⟨he, rfl⟩)
    obtain ⟨hr, -⟩ := s.trusted_iff.mp hs
    obtain ⟨-, hpin⟩ := (eventEffect s e).trusted_iff.mp hnext
    simp only [List.length_cons, errTrace, step_withEvents_eventEffect hr, ih hnext hes, List.replicate_succ,
      State.errPin_eq, State.withEvents_err, hpin]

/-- After the first reset a run ends where R9 says. -/
theorem runEvents_eq_refEnd {s : State} (hr : s.resetSeen = true) (es : List Event) :
    runEvents s es = .next (s.refEnd es) := runSteps_withEvents es 0 s (.inl hr)

/-- A run from any state that answers a next state answers the effects of its events: one that is refused answers none. -/
theorem eq_foldl_eventEffect_of_runEvents {s t : State} {es : List Event} (h : runEvents s es = .next t) :
    t = (es.foldl eventEffect s).withEvents [] := by
  induction es generalizing s with
  | nil =>
    rw [runEvents_nil] at h
    cases h
    rfl
  | cons e es ih =>
    match e, hr : s.resetSeen with
    | .reset, _ =>
      rw [runEvents_reset] at h
      exact ih h
    | .cmd w, true =>
      rw [runEvents_command hr] at h
      exact ih h
    | .cmd w, false =>
      rw [runEvents_early_command hr] at h
      cases h

/-- An illegal command stays on record over any events without a reset (R97). -/
theorem illegalSinceReset_true {es : List Event} (h : .reset ∉ es) : illegalSinceReset true es = true := by
  induction es with
  | nil => rfl
  | cons e es ih =>
    obtain ⟨he, hes⟩ := not_or.mp (mt List.mem_cons.mpr h)
    cases e with
    | reset => exact absurd rfl he
    | cmd w => exact ih hes

/-- A run with a reserved word and no reset after it leaves the flag set, whatever came before (R90, R97). -/
theorem foldl_eventEffect_err_of_reserved {w : CommandWord} {fs : List Event} (hw : 0x600 ≤ w.toNat) (hfs : .reset ∉ fs)
    (es : List Event) (s : State) : ((es ++ .cmd w :: fs).foldl eventEffect s).err = true := by
  rw [List.foldl_append, List.foldl_cons, foldl_eventEffect_err, eventEffect, commandEffect_decode_reserved hw]
  exact illegalSinceReset_true hfs

/-- Settles O23: a trusted state stays trusted event by event, so the pin stays 0. -/
theorem avoidingReservedWordsKeepsResultsTrusted : Obligations.AvoidingReservedWordsKeepsResultsTrusted := by
  intro s es hs h
  obtain ⟨hr, -⟩ := s.trusted_iff.mp hs
  exact ⟨_, runEvents_eq_foldl_eventEffect hr es, foldl_eventEffect_trusted hs h, foldl_eventEffect_isFinal hs h,
    errTrace_of_avoidsReserved hs h⟩

/-- Settles O59: the run ends where R9 says, and there the flag tells whether it is final. -/
theorem resultsAreClaimedOnlyUnderErrZero : Obligations.ResultsAreClaimedOnlyUnderErrZero := by
  refine ⟨fun s es h hs => ?claim, fun s t w es fs hw hfs hrun => ?fault⟩
  case claim =>
    obtain ⟨hr, herr⟩ := s.trusted_iff.mp hs
    have hend : s.refEnd es = (es.foldl eventEffect s).withEvents [] :=
      eq_foldl_eventEffect_of_runEvents (runEvents_eq_refEnd hr es)
    have hfinal : (s.refEnd es).isFinal = true := hend ▸ foldl_eventEffect_isFinal hs h
    obtain ⟨-, -, hclear⟩ := (State.isFinal_iff _).mp hfinal
    rw [← herr]
    exact ⟨s.refEnd es, runEvents_eq_refEnd hr es, hfinal, rfl, rfl, hclear.trans herr.symm⟩
  case fault =>
    obtain rfl := eq_foldl_eventEffect_of_runEvents hrun
    have hfaulted : (((es ++ .cmd w :: fs).foldl eventEffect s).withEvents []).faulted = true :=
      foldl_eventEffect_err_of_reserved hw hfs es s
    exact ⟨rfl, hfaulted, State.faulted_not_isFinal hfaulted⟩

end Sys2Proof.Machine
end

section
/-! PROOFS. The two byte reads and the word read (spec/42_read.md R73, spec/70_reset_and_hazards.md HD4): O48. -/

namespace Sys2Proof.Machine

/-- An event that HD4 allows between the two byte reads leaves the accumulator. -/
theorem eventEffect_keepsCrc {e : Event} (h : e.keepsCrc = true) (s : State) : (eventEffect s e).crc = s.crc := by
  cases e with
  | reset => cases h
  | cmd w =>
    rw [eventEffect]
    rw [Event.keepsCrc] at h
    cases hw : decode w with
    | init | upd => rw [hw] at h; cases h
    | nop | rd16 | rdlo | rdhi | reserved6 | reserved7 => rfl

/-- So do any number of them. -/
theorem foldl_eventEffect_keepsCrc {es : List Event} (h : es.all Event.keepsCrc = true) (s : State) :
    (es.foldl eventEffect s).crc = s.crc := by
  induction es generalizing s with
  | nil => rfl
  | cons e es ih =>
    obtain ⟨he, hes⟩ : e.keepsCrc = true ∧ es.all Event.keepsCrc = true := Bool.and_eq_true_iff.mp h
    exact (ih hes _).trans (eventEffect_keepsCrc he s)

/-- After the response `v`, events that keep the accumulator leave it for the next read, and respond once per read. -/
theorem foldl_eventEffect_respond {es : List Event} (h : es.all Event.keepsCrc = true) (s : State) (v : Word) :
    (es.foldl eventEffect (s.respond v)).crc = s.crc ∧
      ∃ rs, (es.foldl eventEffect (s.respond v)).responses = s.responses ++ [v] ++ rs ∧ rs.length = readsIn es :=
  ⟨foldl_eventEffect_keepsCrc h _, foldl_eventEffect_responses es _⟩

/-- The host's byte reads and word read, `es` between the first two and `fs` before the last (R73, HD4). -/
def byteAndWordReads (es fs : List Event) : List Event :=
  present [.rdlo] ++ es ++ present [.rdhi] ++ fs ++ present [.rd16]

/-- The effect of the three reads: the low byte is read first, the high byte after `es`, the word after `fs`. -/
theorem foldl_byteAndWordReads {es fs : List Event} {s t u : State}
    (ht : es.foldl eventEffect (s.respond (zext16 (lowByte s.crc))) = t)
    (hu : fs.foldl eventEffect (t.respond (zext16 (highByte t.crc))) = u) :
    (byteAndWordReads es fs).foldl eventEffect s = u.respond u.crc := by
  subst ht hu
  simp only [byteAndWordReads, List.foldl_append]
  rfl

/-- All three reads respond with the one accumulator: its low byte, its high byte, and itself (R73). -/
theorem foldl_byteAndWordReads_responses {es fs : List Event} (hes : es.all Event.keepsCrc = true)
    (hfs : fs.all Event.keepsCrc = true) (s : State) :
    ∃ rs rs' : List Word, rs.length = readsIn es ∧ rs'.length = readsIn fs ∧
      ((byteAndWordReads es fs).foldl eventEffect s).responses =
        s.responses ++ [zext16 (lowByte s.crc)] ++ rs ++ [zext16 (highByte s.crc)] ++ rs' ++ [s.crc] := by
  obtain ⟨hcrc, rs, hrs, hlen⟩ := foldl_eventEffect_respond hes s (zext16 (lowByte s.crc))
  generalize ht : es.foldl eventEffect (s.respond (zext16 (lowByte s.crc))) = t at hcrc hrs
  obtain ⟨hcrc', rs', hrs', hlen'⟩ := foldl_eventEffect_respond hfs t (zext16 (highByte t.crc))
  exact ⟨rs, rs', hlen, hlen', by
    rw [foldl_byteAndWordReads ht rfl, State.respond_responses, hrs', hcrc', hrs, hcrc]⟩

/-- A word's number is put together from its two bytes (R73). -/
theorem toNat_eq_bytes (a : Word) : a.toNat = (zext16 (highByte a)).toNat * 256 + (zext16 (lowByte a)).toNat := by
  rw [zext16_lowByte_eq_ofNat, zext16_highByte_eq_ofNat, BitVec.toNat_ofNat, BitVec.toNat_ofNat]
  omega

/-- And so is the word: the low byte fills the place that the shift leaves (R73). -/
theorem eq_shiftLeft_add_bytes (a : Word) : a = zext16 (highByte a) <<< 8 + zext16 (lowByte a) := by
  have hbytes := toNat_eq_bytes a
  apply BitVec.eq_of_toNat_eq
  rw [BitVec.toNat_add, BitVec.toNat_shiftLeft, Nat.shiftLeft_eq]
  omega

/-- Two stretches of events avoid reserved words when each does. -/
theorem avoidsReserved_append (es fs : List Event) :
    avoidsReserved (es ++ fs) = (avoidsReserved es && avoidsReserved fs) := List.all_append

/-- The three reads are no reserved words, so they may stand around events that are none either. -/
theorem avoidsReserved_byteAndWordReads {es fs : List Event} (h : avoidsReserved (es ++ fs) = true) :
    avoidsReserved (byteAndWordReads es fs) = true := by
  rw [avoidsReserved_append, Bool.and_eq_true_iff] at h
  obtain ⟨hes, hfs⟩ := h
  have hlo : avoidsReserved (present [.rdlo]) = true := rfl
  have hhi : avoidsReserved (present [.rdhi]) = true := rfl
  have hword : avoidsReserved (present [.rd16]) = true := rfl
  simp only [byteAndWordReads, avoidsReserved_append, hes, hfs, hlo, hhi, hword, Bool.and_self]

/-- Settles O48: the events between keep the accumulator, so the three reads read one value. -/
theorem byteReadsAgreeWithTheWordRead : Obligations.ByteReadsAgreeWithTheWordRead := by
  refine ⟨fun s es fs hr hes hfs => ?run, fun s es fs hes hfs havoids hs => ?claim⟩
  all_goals obtain ⟨rs, rs', hlen, hlen', hresponses⟩ := foldl_byteAndWordReads_responses hes hfs s
  case run =>
    exact ⟨_, _, _, rs, rs', runEvents_eq_foldl_eventEffect hr (byteAndWordReads es fs), hresponses, hlen, hlen', rfl, rfl,
      eq_shiftLeft_add_bytes s.crc, toNat_eq_bytes s.crc⟩
  case claim =>
    obtain ⟨hr, -⟩ := s.trusted_iff.mp hs
    exact ⟨_, runEvents_eq_foldl_eventEffect hr (byteAndWordReads es fs),
      foldl_eventEffect_isFinal hs (avoidsReserved_byteAndWordReads havoids), rs, rs', hlen, hlen', hresponses⟩

end Sys2Proof.Machine
end

section
/-! PROOFS. Reset at both levels, an update in progress included (spec/70_reset_and_hazards.md R100, R101): O2, O20. -/

namespace Sys2Proof.Machine

/-- Edges with `rst = 1`, one at least, leave the reset state (R100). -/
theorem runEdges_reset {ps : List Pins} (hne : ps ≠ []) (hrst : ∀ p ∈ ps, p.rst = true) (v : Variant) (c : ClockState) :
    runEdges v c ps = clockReset := by
  induction ps generalizing c with
  | nil => exact absurd rfl hne
  | cons p ps ih =>
    obtain ⟨hp, hps⟩ := List.forall_mem_cons.mp hrst
    rw [runEdges, edge_reset hp]
    cases ps with
    | nil => rfl
    | cons q qs => exact ih (List.cons_ne_nil q qs) hps clockReset

/-- After reset either variant is ready (R100). -/
@[simp] theorem cmdReady_clockReset (v : Variant) : cmdReady v clockReset = true := by cases v <;> rfl

/-- A reset forgets what the command before it did to `CRC` and `ERR` (R101). -/
theorem takeReset_commandEffect_upd (d : Byte) (s : State) : takeReset (commandEffect (.upd d) s) = takeReset s := rfl

/-- Settles O2: the step that takes a reset, the edges with `rst = 1`, and the reset state. -/
theorem resetWritesCrcAndErrAndWins : Obligations.ResetWritesCrcAndErrAndWins := by
  refine ⟨fun s es h => step_reset h, fun v c p hrst => ⟨edge_reset hrst, ?notAccepted, ?event⟩,
    fun v c ps hne hrst => runEdges_reset hne hrst v c, fun v w => accepts_iff.mpr ⟨rfl, rfl, cmdReady_clockReset v⟩,
    fun v => ?pins, exec_eq_next_commandEffect .init State.reset⟩
  case notAccepted => simp [accepts, hrst]
  case event => simp [acceptedEvents_singleton, hrst]
  case pins => rw [outPins, cmdReady_clockReset]; rfl

/-- Settles O20: an edge with `rst = 1` reads nothing of the state, and a `Reset` event overwrites what `UPD` wrote. -/
theorem resetAbandonsAnUpdateInProgress : Obligations.ResetAbandonsAnUpdateInProgress := by
  refine ⟨fun c p _ hrst => edge_reset hrst, fun s d hr => ?events⟩
  case events =>
    rw [runEvents_command hr, decode_encode, runEvents_reset, runEvents_reset, takeReset_commandEffect_upd]

end Sys2Proof.Machine
end

section
/-! PROOFS. How long the engine is not ready (spec/70_reset_and_hazards.md R113): O55. -/

namespace Sys2Proof.Machine

/-- The shift edges that pass before the engine is ready: the rest of an update in progress (R37, R58). -/
def waitEdges (v : Variant) (c : ClockState) : Nat := if cmdReady v c then 0 else c.bitcnt.toNat

/-- A ready engine has no wait. -/
theorem waitEdges_ready {v : Variant} {c : ClockState} (h : cmdReady v c = true) : waitEdges v c = 0 := if_pos h

/-- An engine that is not ready has an update in progress, in the `BITSERIAL` variant (R37). -/
theorem busy_of_not_ready {v : Variant} {c : ClockState} (h : cmdReady v c = false) : v = .bitSerial ∧ c.busy = true := by
  cases v with
  | table => cases h
  | bitSerial => exact ⟨rfl, (Bool.not_eq_false' _).mp h⟩

/-- The wait of an engine that is not ready is `BITCNT`. -/
theorem waitEdges_not_ready {v : Variant} {c : ClockState} (h : cmdReady v c = false) : waitEdges v c = c.bitcnt.toNat := by
  simp [waitEdges, h]

/-- After a shift edge the wait is what `BITCNT` has been counted down to: `BUSY` falls when that is 0 (R58). -/
theorem waitEdges_shiftEdge (c : ClockState) : waitEdges .bitSerial (shiftEdge c) = (c.bitcnt - 1#4).toNat := by
  by_cases h : c.bitcnt - 1#4 = 0#4 <;> simp [waitEdges, cmdReady, shiftEdge, h]

/-- An update in progress of a consistent engine has from 1 to 8 shift edges left (R17). -/
theorem bitcnt_of_not_ready {v : Variant} {c : ClockState} (hc : Consistent v c = true) (h : cmdReady v c = false) :
    0 < c.bitcnt.toNat ∧ c.bitcnt.toNat ≤ 8 := by
  obtain ⟨rfl, hbusy⟩ := busy_of_not_ready h
  simp only [Consistent, hbusy, Bool.and_eq_true, decide_eq_true_eq, beq_iff_eq] at hc
  obtain ⟨hle, hne⟩ := hc
  have hne : c.bitcnt ≠ 0#4 := bne_iff_ne.mp hne.symm
  bv_omega

/-- A consistent engine is ready within eight shift edges (R113). -/
theorem waitEdges_le_eight {v : Variant} {c : ClockState} (hc : Consistent v c = true) : waitEdges v c ≤ 8 := by
  cases h : cmdReady v c with
  | true => rw [waitEdges_ready h]; exact Nat.zero_le 8
  | false => rw [waitEdges_not_ready h]; exact (bitcnt_of_not_ready hc h).2

/-- The reset state is consistent in either variant (R17, R19). -/
theorem consistent_clockReset (v : Variant) : Consistent v clockReset = true := by cases v <;> rfl

/-- A shift edge of an update in progress leaves `BUSY` saying that `BITCNT` is not 0 (R58). -/
theorem consistent_shiftEdge {c : ClockState} (hpos : 0 < c.bitcnt.toNat) (hle : c.bitcnt.toNat ≤ 8) :
    Consistent .bitSerial (shiftEdge c) = true := by
  have hbound : c.bitcnt - 1#4 ≤ 8#4 := by bv_omega
  simp [Consistent, shiftEdge, hbound]

/-- An edge at which a consistent engine is not ready brings it, consistent still, one edge nearer to being ready, whatever the
host does: a shift edge does so, and a reset makes it ready at once (R113). -/
theorem edge_shortens_wait {v : Variant} {c : ClockState} (hc : Consistent v c = true) (h : cmdReady v c = false) (p : Pins) :
    Consistent v (edge v c p) = true ∧ waitEdges v (edge v c p) < waitEdges v c := by
  obtain ⟨hpos, hle⟩ := bitcnt_of_not_ready hc h
  rw [waitEdges_not_ready h]
  cases hrst : p.rst with
  | true =>
    rw [edge_reset hrst, waitEdges_ready (cmdReady_clockReset v)]
    exact ⟨consistent_clockReset v, hpos⟩
  | false =>
    obtain ⟨rfl, -⟩ := busy_of_not_ready h
    have hshift : edge .bitSerial c p = shiftEdge c := by simp [edge, hrst, h]
    rw [hshift, waitEdges_shiftEdge]
    exact ⟨consistent_shiftEdge hpos hle, by bv_omega⟩

/-- As many edges as a consistent engine still has to wait for make it ready, whatever the host does (R113). -/
theorem exists_ready {v : Variant} {ps : List Pins} {c : ClockState} (hc : Consistent v c = true)
    (hwait : waitEdges v c ≤ ps.length) : ∃ k ≤ ps.length, cmdReady v (runEdges v c (ps.take k)) = true := by
  induction ps generalizing c with
  | nil =>
    cases h : cmdReady v c with
    | true => exact ⟨0, le_rfl, h⟩
    | false =>
      obtain ⟨hpos, -⟩ := bitcnt_of_not_ready hc h
      rw [waitEdges_not_ready h, List.length_nil] at hwait
      omega
  | cons p ps ih =>
    cases h : cmdReady v c with
    | true => exact ⟨0, Nat.zero_le _, h⟩
    | false =>
      obtain ⟨hc', hless⟩ := edge_shortens_wait hc h p
      rw [List.length_cons] at hwait
      obtain ⟨k, hk, hready⟩ := ih hc' (by omega)
      exact ⟨k + 1, Nat.succ_le_succ hk, hready⟩

/-- Settles O55: the wait is eight edges at most, and every edge shortens it. -/
theorem engineIsReadyWithinEightEdges : Obligations.EngineIsReadyWithinEightEdges := by
  intro v c ps hc hlen
  rw [← hlen]
  exact exists_ready hc (hlen ▸ waitEdges_le_eight hc)

end Sys2Proof.Machine
end

section
/-! PROOFS. The edges of a message (spec/70_reset_and_hazards.md R112, last row of its table): O56. -/

namespace Sys2Proof.Machine

/-- The edges that an accepted `UPD` keeps the engine from being ready: none, or the eight shifts (R112). -/
def shiftEdges : Variant → Nat
  | .table => 0
  | .bitSerial => 8

/-- Right after its accepting edge an `UPD` has all its shift edges left. -/
theorem waitEdges_updEdge (v : Variant) (c : ClockState) (d : Byte) : waitEdges v (updEdge v c d) = shiftEdges v := by
  cases v <;> rfl

/-- The accepting edge of the word of `UPD d`. -/
theorem acceptEdge_encode_upd (v : Variant) (c : ClockState) (d : Byte) :
    acceptEdge v c (encode (.upd d)) = updEdge v c d := by rw [acceptEdge, decode_encode]

/-! The events and the responses of edges, one edge or one stretch of edges after another. -/

/-- The events of an edge with `rst = 1` and of those after it. -/
theorem acceptedEvents_cons_reset {c : ClockState} {p : Pins} (hrst : p.rst = true) (v : Variant) (ps : List Pins) :
    acceptedEvents v c (p :: ps) = .reset :: acceptedEvents v (edge v c p) ps := by simp [acceptedEvents, hrst]

/-- The events of an edge at which a word is accepted and of those after it. -/
theorem acceptedEvents_cons_accepted {v : Variant} {c : ClockState} {p : Pins} (hacc : accepts v c p = true)
    (ps : List Pins) : acceptedEvents v c (p :: ps) = .cmd p.cmd :: acceptedEvents v (acceptEdge v c p.cmd) ps := by
  obtain ⟨hrst, -, -⟩ := accepts_iff.mp hacc
  simp [acceptedEvents, hrst, hacc, edge_accepted hacc]

/-- An edge without either has no event. -/
theorem acceptedEvents_cons_not_accepted {v : Variant} {c : ClockState} {p : Pins} (hrst : p.rst = false)
    (hacc : accepts v c p = false) (ps : List Pins) :
    acceptedEvents v c (p :: ps) = acceptedEvents v (edge v c p) ps := by simp [acceptedEvents, hrst, hacc]

/-- The events of two stretches of edges. -/
theorem acceptedEvents_append (v : Variant) (c : ClockState) (ps qs : List Pins) :
    acceptedEvents v c (ps ++ qs) = acceptedEvents v c ps ++ acceptedEvents v (runEdges v c ps) qs := by
  induction ps generalizing c with
  | nil => rfl
  | cons p ps ih => rw [List.cons_append, acceptedEvents, ih, ← List.append_assoc]; rfl

/-- The responses in two stretches of edges. -/
theorem seenResponses_append (v : Variant) (c : ClockState) (ps qs : List Pins) :
    seenResponses v c (ps ++ qs) = seenResponses v c ps ++ seenResponses v (runEdges v c ps) qs := by
  induction ps generalizing c with
  | nil => rfl
  | cons p ps ih => rw [List.cons_append, seenResponses, ih, ← List.append_assoc]; rfl

/-- Without an event there is no response (R40). -/
theorem seenResponses_eq_nil {v : Variant} {c : ClockState} {ps : List Pins} (h : acceptedEvents v c ps = []) :
    seenResponses v c ps = [] := by
  induction ps generalizing c with
  | nil => rfl
  | cons p ps ih =>
    match hrst : p.rst, hacc : accepts v c p with
    | true, _ => rw [acceptedEvents_cons_reset hrst] at h; cases h
    | false, true => rw [acceptedEvents_cons_accepted hacc] at h; cases h
    | false, false =>
      rw [acceptedEvents_cons_not_accepted hrst hacc] at h
      rw [seenResponses, ih h, edge_rsp_not_accepted hacc]
      rfl

/-! The least number of edges. -/

/-- An edge at which nothing is accepted and no reset is taken shortens the wait by one edge at most. -/
theorem waitEdges_le_succ {v : Variant} {c : ClockState} {p : Pins} (hrst : p.rst = false) (hacc : accepts v c p = false) :
    waitEdges v c ≤ waitEdges v (edge v c p) + 1 := by
  rw [edge_not_accepted hrst hacc]
  cases h : cmdReady v c with
  | true => rw [waitEdges_ready h]; exact Nat.zero_le _
  | false =>
    obtain ⟨rfl, -⟩ := busy_of_not_ready h
    rw [waitEdges_not_ready h, if_neg Bool.false_ne_true, waitEdges_shiftEdge]
    bv_omega

/-- Edges whose first event is the acceptance of `w` are the wait, the accepting edge, and the edges of the later events. -/
theorem acceptedEvents_eq_cons {v : Variant} {c : ClockState} {ps : List Pins} {w : CommandWord} {es : List Event}
    (h : acceptedEvents v c ps = .cmd w :: es) :
    ∃ c' qs, acceptedEvents v (acceptEdge v c' w) qs = es ∧ waitEdges v c + 1 + qs.length ≤ ps.length := by
  induction ps generalizing c with
  | nil => cases h
  | cons p ps ih =>
    match hrst : p.rst, hacc : accepts v c p with
    | true, _ => rw [acceptedEvents_cons_reset hrst] at h; cases h
    | false, true =>
      rw [acceptedEvents_cons_accepted hacc] at h
      obtain ⟨-, -, hready⟩ := accepts_iff.mp hacc
      cases h
      exact ⟨c, ps, rfl, by rw [waitEdges_ready hready, List.length_cons]; omega⟩
    | false, false =>
      rw [acceptedEvents_cons_not_accepted hrst hacc] at h
      obtain ⟨c', qs, hes, hlen⟩ := ih h
      have hwait := waitEdges_le_succ hrst hacc
      exact ⟨c', qs, hes, by rw [List.length_cons]; omega⟩

/-- Edges that accept one `UPD` per byte and then `RD16` number at least one per byte with its shifts, and one. -/
theorem length_of_upds_rd16 {v : Variant} {c : ClockState} {m : List Byte} {ps : List Pins}
    (h : acceptedEvents v c ps = present (m.map .upd ++ [.rd16])) :
    waitEdges v c + (shiftEdges v + 1) * m.length + 1 ≤ ps.length := by
  induction m generalizing c ps with
  | nil =>
    obtain ⟨c', qs, -, hlen⟩ := acceptedEvents_eq_cons h
    rw [List.length_nil]
    omega
  | cons b m ih =>
    obtain ⟨c', qs, hes, hlen⟩ := acceptedEvents_eq_cons h
    have hlater := ih hes
    rw [acceptEdge_encode_upd, waitEdges_updEdge] at hlater
    rw [List.length_cons, Nat.mul_succ]
    omega

/-- A message takes an edge for `INIT` more (R112). -/
theorem length_of_computeSeq {v : Variant} {c : ClockState} {m : List Byte} {ps : List Pins}
    (h : acceptedEvents v c ps = present (computeSeq m)) : (shiftEdges v + 1) * m.length + 2 ≤ ps.length := by
  obtain ⟨c', qs, hes, hlen⟩ := acceptedEvents_eq_cons h
  have hlater := length_of_upds_rd16 hes
  omega

/-! A host that loses no edge. -/

/-- The pins that present `w`. -/
def presentPins (w : CommandWord) : Pins := { rst := false, cmdValid := true, cmd := w }

/-- The pins of an edge at which the host does nothing. -/
def idlePins : Pins := { rst := false, cmdValid := false, cmd := 0x000#11 }

/-- The pins at the shift edges of an `UPD`. -/
def waitPins (v : Variant) : List Pins := List.replicate (shiftEdges v) idlePins

/-- The pins that feed one byte: its word, and the wait for its shift edges. -/
def bytePins (v : Variant) (b : Byte) : List Pins := presentPins (encode (.upd b)) :: waitPins v

/-- The pins that feed the bytes of a message and read the CRC. -/
def updsPins (v : Variant) (m : List Byte) : List Pins := m.flatMap (bytePins v) ++ [presentPins (encode .rd16)]

/-- The pins of a message. -/
def messagePins (v : Variant) (m : List Byte) : List Pins := presentPins (encode .init) :: updsPins v m

/-- Their number is the least that a message takes. -/
theorem length_messagePins (v : Variant) (m : List Byte) :
    (messagePins v m).length = (shiftEdges v + 1) * m.length + 2 := by
  simp [messagePins, updsPins, bytePins, waitPins, Nat.mul_comm]

/-- A ready engine accepts the word presented. -/
theorem accepts_presentPins {v : Variant} {c : ClockState} (h : cmdReady v c = true) (w : CommandWord) :
    accepts v c (presentPins w) = true := accepts_iff.mpr ⟨rfl, rfl, h⟩

/-- When the shift edges of an `UPD` are over, nothing has been accepted at them, the engine is ready, and the accumulator is
updated: the two forms of the update agree (R58, R59). -/
theorem updEdge_waited (v : Variant) (c : ClockState) (b : Byte) :
    acceptedEvents v (updEdge v c b) (waitPins v) = [] ∧ cmdReady v (runEdges v (updEdge v c b) (waitPins v)) = true ∧
      (runEdges v (updEdge v c b) (waitPins v)).crc = upd c.crc b := by
  cases v with
  | table => exact ⟨rfl, rfl, rfl⟩
  | bitSerial =>
    have hstart : updEdge .bitSerial c b = c.shifted (c.crc ^^^ zext16 b) 0 := rfl
    obtain ⟨hrun, hevents⟩ := runEdges_shifted c (c.crc ^^^ zext16 b) (ps := waitPins .bitSerial) (k := 0) le_rfl
      fun q hq => List.eq_of_mem_replicate hq ▸ rfl
    rw [hstart, hrun, hevents]
    exact ⟨rfl, rfl, updSerial_eq_upd c.crc b⟩

/-- Feeding one byte to a ready engine: its word is accepted, nothing is responded, and the engine is ready again with the
accumulator updated. -/
theorem edges_bytePins {v : Variant} {c : ClockState} (hready : cmdReady v c = true) (b : Byte) :
    acceptedEvents v c (bytePins v b) = present [.upd b] ∧ seenResponses v c (bytePins v b) = [] ∧
      cmdReady v (runEdges v c (bytePins v b)) = true ∧ (runEdges v c (bytePins v b)).crc = upd c.crc b := by
  have hacc := accepts_presentPins hready (encode (.upd b))
  have hedge : edge v c (presentPins (encode (.upd b))) = updEdge v c b :=
    (edge_accepted hacc).trans (acceptEdge_encode_upd v c b)
  obtain ⟨hevents, hready', hcrc⟩ := updEdge_waited v c b
  rw [bytePins, runEdges, seenResponses, acceptedEvents_cons_accepted hacc, ← edge_accepted hacc, hedge, hevents,
    seenResponses_eq_nil hevents, updEdge_rsp]
  exact ⟨rfl, rfl, hready', hcrc⟩

/-- Feeding the bytes of a message to a ready engine and reading gives the one response, the fold of the message. -/
theorem edges_updsPins {v : Variant} {c : ClockState} (hready : cmdReady v c = true) (m : List Byte) :
    acceptedEvents v c (updsPins v m) = present (m.map .upd ++ [.rd16]) ∧
      seenResponses v c (updsPins v m) = [foldCrc m c.crc] := by
  induction m generalizing c with
  | nil =>
    have hacc := accepts_presentPins hready (encode .rd16)
    have hpins : updsPins v [] = [presentPins (encode .rd16)] := rfl
    rw [hpins, acceptedEvents_cons_accepted hacc, seenResponses, edge_accepted hacc]
    exact ⟨rfl, rfl⟩
  | cons b m ih =>
    obtain ⟨hevents, hnone, hready', hcrc⟩ := edges_bytePins hready b
    obtain ⟨hevents', hresponse⟩ := ih hready'
    have hpins : updsPins v (b :: m) = bytePins v b ++ updsPins v m := List.append_assoc ..
    rw [hpins, acceptedEvents_append, seenResponses_append, hevents, hnone, hevents', hresponse, hcrc]
    exact ⟨rfl, rfl⟩

/-- From reset the pins of a message are accepted word by word, with the one response `crc(m)` (R78, R112). -/
theorem edges_messagePins (v : Variant) (m : List Byte) :
    acceptedEvents v clockReset (messagePins v m) = present (computeSeq m) ∧
      seenResponses v clockReset (messagePins v m) = [crcOf m] := by
  have hacc := accepts_presentPins (cmdReady_clockReset v) (encode .init)
  obtain ⟨hevents, hresponse⟩ := edges_updsPins (cmdReady_clockReset v) m
  rw [messagePins, acceptedEvents_cons_accepted hacc, seenResponses, edge_accepted hacc]
  exact ⟨congrArg _ hevents, hresponse⟩

/-- Settles O56: in each variant the least number of edges, and the pins of a host that loses none. -/
theorem messageTakesTheSpecifiedEdges : Obligations.MessageTakesTheSpecifiedEdges := by
  refine ⟨fun c m ps _ h => ?tableLeast, fun c m ps _ h => length_of_computeSeq h,
    fun m => ⟨messagePins .table m, ?tableLength, edges_messagePins .table m⟩,
    fun m => ⟨messagePins .bitSerial m, length_messagePins .bitSerial m, edges_messagePins .bitSerial m⟩⟩
  case tableLeast => simpa [shiftEdges] using length_of_computeSeq h
  case tableLength => simp [length_messagePins, shiftEdges]

end Sys2Proof.Machine
end

section
/-! PROOFS. The account of responses against read commands (spec/30_encoding.md R40): O27, O28. -/

namespace Sys2Proof.Machine

/-- The read commands of a list of events, its first event apart. -/
theorem readsIn_cons (e : Event) (es : List Event) : readsIn (e :: es) = readsIn [e] + readsIn es := by
  rw [← List.singleton_append, readsIn, List.filter_append, List.length_append]
  rfl

/-- No event touches the host's later events. -/
theorem eventEffect_events (s : State) (e : Event) : (eventEffect s e).events = s.events := by
  cases e with
  | reset => rfl
  | cmd w => exact commandEffect_events (decode w) s

/-- A step that answers a next state was idle, or had the effect of the event it took. -/
theorem step_next_eventEffect {s t : State} (h : step s = .next t) :
    t = s ∨ ∃ e es, s.events = e :: es ∧ t = eventEffect (s.setEvents es) e := by
  obtain ⟨-, hidle⟩ | ⟨es, hes, ht⟩ | ⟨w, es, hes, -, ht⟩ := step_next_cases h
  · exact .inl hidle
  · exact .inr ⟨.reset, es, hes, ht⟩
  · exact .inr ⟨.cmd w, es, hes, ht⟩

/-- Settles O27: the event a step takes leaves the events still to come, and if it is a read command its response comes. -/
theorem stepsKeepTheResponseAccount : Obligations.StepsKeepTheResponseAccount := by
  intro k s t hk h
  obtain rfl | ⟨e, es, hes, rfl⟩ := step_next_eventEffect h
  · exact hk
  · obtain ⟨rs, hrs, hlen⟩ := eventEffect_responses (s.setEvents es) e
    rw [ResponsesAccounted, hes, readsIn_cons] at hk
    rw [ResponsesAccounted, hrs, eventEffect_events, List.length_append, hlen, State.setEvents_responses,
      State.setEvents_events, Nat.add_assoc, hk]

/-- Settles O28: both lists of `State.reset` are empty (log entry 16). -/
theorem resetStartsTheResponseAccount : Obligations.ResetStartsTheResponseAccount := rfl

end Sys2Proof.Machine
end

section
/-! PROOFS. Consistency of the clocked engine, and its refinement of the command level (spec/10_state.md R17, R18,
spec/41_update.md R58, spec/60_exceptions.md R92): O50, O49, O53. -/

namespace Sys2Proof.Machine

/-- No update is in progress in a consistent engine that is ready: `BITCNT` is 0 (R17). -/
theorem bitcnt_of_ready {v : Variant} {c : ClockState} (hc : Consistent v c = true) (h : cmdReady v c = true) :
    c.bitcnt = 0#4 := by
  cases v with
  | table =>
    obtain ⟨-, hbitcnt⟩ : c.busy = false ∧ c.bitcnt = 0#4 := by simpa [Consistent] using hc
    exact hbitcnt
  | bitSerial =>
    have hbusy : c.busy = false := (Bool.not_eq_true' _).mp h
    obtain ⟨-, hbitcnt⟩ : c.bitcnt ≤ 8#4 ∧ c.bitcnt = 0#4 := by simpa [Consistent, hbusy] using hc
    exact hbitcnt

/-- Consistency reads `BUSY` and `BITCNT` alone. -/
theorem consistent_congr {c c' : ClockState} (hbusy : c'.busy = c.busy) (hbitcnt : c'.bitcnt = c.bitcnt) (v : Variant) :
    Consistent v c' = Consistent v c := by
  simp only [Consistent, hbusy, hbitcnt]

/-- The accepting edge of `UPD` leaves a consistent engine: unchanged `BUSY` and `BITCNT`, or an update begun (R58). -/
theorem consistent_updEdge {v : Variant} {c : ClockState} (hc : Consistent v c = true) (d : Byte) :
    Consistent v (updEdge v c d) = true := by
  cases v with
  | table => exact hc
  | bitSerial => rfl

/-- The accepting edge of any command leaves a consistent engine. -/
theorem consistent_acceptEdge {v : Variant} {c : ClockState} (hc : Consistent v c = true) (w : CommandWord) :
    Consistent v (acceptEdge v c w) = true := by
  rw [acceptEdge]
  cases decode w with
  | upd d => exact consistent_updEdge hc d
  | nop | init | rd16 | rdlo | rdhi | reserved6 | reserved7 => exact (consistent_congr rfl rfl v).trans hc

/-- Every edge keeps a consistent engine consistent (R17). -/
theorem consistent_edge {v : Variant} {c : ClockState} (hc : Consistent v c = true) (p : Pins) :
    Consistent v (edge v c p) = true := by
  match hready : cmdReady v c, hrst : p.rst, hacc : accepts v c p with
  | false, _, _ => exact (edge_shortens_wait hc hready p).1
  | true, true, _ => rw [edge_reset hrst]; exact consistent_clockReset v
  | true, false, true => rw [edge_accepted hacc]; exact consistent_acceptEdge hc p.cmd
  | true, false, false =>
    rw [edge_not_accepted hrst hacc, hready, if_pos rfl]
    exact (consistent_congr rfl rfl v).trans hc

/-- Settles O50: a reset edge leaves the reset state, and while `BUSY` is 1 the engine is not ready. -/
theorem edgesKeepTheHiddenStateConsistent : Obligations.EdgesKeepTheHiddenStateConsistent := by
  refine ⟨fun v c p hrst => ?reset, fun v c p hc => consistent_edge hc p, fun c p hbusy => ?busy, fun c hc => ?table⟩
  case reset => rw [edge_reset hrst]; exact consistent_clockReset v
  case busy =>
    have hacc : accepts .bitSerial c p = false := by simp [accepts, cmdReady, hbusy]
    exact ⟨hacc, edge_rsp_not_accepted hacc⟩
  case table => simpa [Consistent] using hc

/-! What an edge does to the command-level state that the clocked state stands for. -/

/-- With no update in progress the accumulator has settled. -/
theorem settledCrc_of_bitcnt_zero {c : ClockState} (h : c.bitcnt = 0#4) : settledCrc c = c.crc := by
  rw [settledCrc, h]
  rfl

/-- A shift edge makes one of the steps still to do, so the accumulator settles to the same value (R58). -/
theorem settledCrc_shiftEdge {c : ClockState} (hpos : 0 < c.bitcnt.toNat) : settledCrc (shiftEdge c) = settledCrc c := by
  have hcount : c.bitcnt.toNat = (c.bitcnt - 1#4).toNat + 1 := by bv_omega
  rw [settledCrc, settledCrc, hcount]
  rfl

/-- The accumulator settles to the update of its value at the accepting edge of `UPD`, in either form (R55, R58, R59). -/
theorem settledCrc_updEdge {c : ClockState} (h : c.bitcnt = 0#4) (v : Variant) (d : Byte) :
    settledCrc (updEdge v c d) = upd c.crc d := by
  cases v with
  | table => exact settledCrc_of_bitcnt_zero h
  | bitSerial => exact updSerial_eq_upd c.crc d

/-- The accepting edge of a word has the effect of its command, and shows the command's response (R37, R40). -/
theorem commandView_acceptEdge {c : ClockState} (h : c.bitcnt = 0#4) (v : Variant) (w : CommandWord) (es : List Event)
    (rs : List Word) : commandView (acceptEdge v c w) es (rs ++ (acceptEdge v c w).rsp.toList) =
      commandEffect (decode w) (commandView c es rs) := by
  have hcrc : settledCrc c = c.crc := settledCrc_of_bitcnt_zero h
  rw [acceptEdge]
  cases decode w with
  | nop => simp [commandView, commandEffect, settledCrc]
  | init => simp [commandView, commandEffect, settledCrc, h, State.setCrc, shrSteps]
  | upd d => simp [commandView, commandEffect, settledCrc_updEdge h, hcrc, State.setCrc]
  | rd16 | rdlo | rdhi => simp [commandView, commandEffect, settledCrc, h, State.respond, shrSteps]
  | reserved6 | reserved7 => simp [commandView, commandEffect, settledCrc, raiseIllegalCommand, State.setErr]

/-- An edge at which nothing is accepted and no reset is taken leaves the command-level state (R7, R92). -/
theorem commandView_not_accepted {v : Variant} {c : ClockState} {p : Pins} (hc : Consistent v c = true)
    (hrst : p.rst = false) (hacc : accepts v c p = false) (es : List Event) (rs : List Word) :
    commandView (edge v c p) es rs = commandView c es rs := by
  rw [edge_not_accepted hrst hacc]
  cases hready : cmdReady v c with
  | true => rfl
  | false =>
    obtain ⟨hpos, -⟩ := bitcnt_of_not_ready hc hready
    rw [if_neg Bool.false_ne_true, commandView, settledCrc_shiftEdge hpos]
    rfl

/-- One edge has the effect of the event accepted at it, if any, with exactly the response that it shows. -/
theorem commandView_edge {v : Variant} {c : ClockState} (hc : Consistent v c = true) (p : Pins) (es : List Event)
    (rs : List Word) : commandView (edge v c p) es (rs ++ (edge v c p).rsp.toList) =
      (acceptedEvents v c [p]).foldl eventEffect (commandView c es rs) := by
  rw [acceptedEvents_singleton]
  match hrst : p.rst, hacc : accepts v c p with
  | true, _ => rw [edge_reset hrst]; exact congrArg (commandView clockReset es) (List.append_nil rs)
  | false, true =>
    obtain ⟨-, -, hready⟩ := accepts_iff.mp hacc
    rw [edge_accepted hacc]
    exact commandView_acceptEdge (bitcnt_of_ready hc hready) v p.cmd es rs
  | false, false =>
    rw [edge_rsp_not_accepted hacc, Option.toList_none, List.append_nil]
    exact commandView_not_accepted hc hrst hacc es rs

/-- Any number of edges have the effects of the events accepted at them, with exactly the responses seen. -/
theorem commandView_runEdges {v : Variant} {c : ClockState} (hc : Consistent v c = true) (ps : List Pins)
    (es : List Event) (rs : List Word) : commandView (runEdges v c ps) es (rs ++ seenResponses v c ps) =
      (acceptedEvents v c ps).foldl eventEffect (commandView c es rs) := by
  induction ps generalizing c rs with
  | nil => exact congrArg (commandView c es) (List.append_nil rs)
  | cons p ps ih =>
    have hevents : acceptedEvents v c (p :: ps) = acceptedEvents v c [p] ++ acceptedEvents v (edge v c p) ps :=
      acceptedEvents_append v c [p] ps
    rw [hevents, List.foldl_append, ← commandView_edge hc, ← ih (consistent_edge hc p), runEdges, seenResponses,
      List.append_assoc]

/-- As many steps as there are first events have their effects, and leave the later events alone (R30). -/
theorem runSteps_eq_foldl_eventEffect {s : State} (hr : s.resetSeen = true) (es fs : List Event) :
    runSteps es.length (s.withEvents (es ++ fs)) = .next ((es.foldl eventEffect s).withEvents fs) := by
  induction es generalizing s with
  | nil => rfl
  | cons e es ih =>
    rw [List.cons_append, List.length_cons, runSteps_succ (step_withEvents_eventEffect hr e _),
      ih (eventEffect_resetSeen hr e), List.foldl_cons]

/-- Settles O49: each edge has the effect of the event accepted at it, and the machine's run has the same effects. -/
theorem clockedEngineRefinesTheCommandLevel : Obligations.ClockedEngineRefinesTheCommandLevel := by
  intro v c ps fs rs hc
  have hrun := runSteps_eq_foldl_eventEffect (s := commandView c [] rs) rfl (acceptedEvents v c ps) fs
  rw [← commandView_runEdges hc] at hrun
  exact (core_run_eq_runSteps _ _).trans hrun

/-- Settles O53: an edge at which nothing is accepted, of an engine with no update in progress, and an idle machine. -/
theorem nothingHappensWithoutACommandOrReset : Obligations.NothingHappensWithoutACommandOrReset := by
  refine ⟨fun v c p hrst hvalid hready => ?edge, fun s k h => ?steps⟩
  case edge =>
    have hacc : accepts v c p = false := by simp [accepts, hvalid]
    rw [edge_not_accepted hrst hacc, if_pos hready]
  case steps => exact (core_run_eq_runSteps k s).trans (runSteps_idle h k)

end Sys2Proof.Machine
end

section
/-! PROOFS. Single steps (spec/00_scope.md R7, R9, spec/70_reset_and_hazards.md R102): O3, O9, O10. -/

namespace Sys2Proof.Machine

/-- Settles O3: by the first event of the run. -/
theorem commandsBeforeFirstResetAreRefused : Obligations.CommandsBeforeFirstResetAreRefused :=
  fun s w es hr => ⟨runEvents_early_command hr w es, runEvents_reset s es, step_idle rfl⟩

/-- Settles O9: `exec` and the step answer the command's effect. -/
theorem stepRunsTheDecodedCommand : Obligations.StepRunsTheDecodedCommand := by
  refine ⟨fun s w es hr hes => ?command, fun s => step_idle⟩
  case command => rw [step_command hes hr, exec_eq_next_commandEffect, State.setEvents]

/-- The step after a word has been presented runs it, on the state with the reset marked (log entry 4). -/
theorem step_presentNext (s : State) (w : CommandWord) :
    step (presentNext s w) = exec (decode w) { s with resetSeen := true } := by
  rw [step_command (presentNext_events s w) (presentNext_resetSeen s w), exec_eq_next_commandEffect]
  rfl

/-- A number whose command the decoder gives is the number of a command word (R35). -/
theorem tableWord_of_decodeTableWord {nbits w : Nat} {i : Instr} (h : decodeTableWord nbits w = some i) :
    ∃ c, tableWord nbits w = .ok c ∧ decode c = i := by
  rw [decodeTableWord] at h
  cases hword : tableWord nbits w with
  | ok c => rw [hword] at h; exact ⟨c, rfl, Option.some.inj h⟩
  | error e => rw [hword] at h; cases h

/-- Settles O10: the word is presented, and the step runs it. -/
theorem fetchWordIsTheNextInstruction : Obligations.FetchWordIsTheNextInstruction := by
  intro s nbits w i h
  obtain ⟨c, hword, rfl⟩ := tableWord_of_decodeTableWord h
  rw [State.withFetchWord, hword]
  exact step_presentNext s c

end Sys2Proof.Machine
end

section
/-! PROOFS. Numbers as command words (spec/30_encoding.md R35, R38), and the integrity figures of the table
(spec/20_memory.md R23): O7, O8, O31. -/

namespace Sys2Proof.Machine

/-- A number that fits the command pins is the command word of that number (R35). -/
theorem commandWord_of_lt {n : Nat} (h : n < 2048) : commandWord n = .ok (BitVec.ofNat 11 n) := by
  have hfits : isCommandWord n = true := decide_eq_true h
  rw [commandWord, if_pos hfits]

/-- A number that does not fit them is no command word (log entry 7). -/
theorem commandWord_of_le {n : Nat} (h : 2048 ≤ n) : commandWord n = .error .widerThanCommandPort := by
  have hwide : isCommandWord n = false := decide_eq_false (Nat.not_lt.mpr h)
  rw [commandWord, hwide, if_neg Bool.false_ne_true]

/-- Settles O8: by whether the number fits the command pins. -/
theorem numbersAboveElevenBitsAreNoWords : Obligations.NumbersAboveElevenBitsAreNoWords := by
  intro nbits w
  refine ⟨fun h => ?fits, fun h => ?wider⟩
  case fits => rw [decodeTableWord, tableWord, commandWord_of_lt h]
  case wider => rw [decodeTableWord, tableWord, commandWord_of_le h]

/-- Settles O7: each word's opcode field selects its row. -/
theorem writtenOutWordsDecode : Obligations.WrittenOutWordsDecode := by
  unfold Obligations.WrittenOutWordsDecode
  decide

/-- `memRead` is the table's entry at its index (R21). -/
theorem getElem?_tableEntries (i : Byte) : tableEntries[i.toNat]? = some (memRead i) := List.getElem?_eq_getElem _

/-- The entries are all different, since `memRead` is injective (R24). -/
theorem tableEntries_nodup : tableEntries.Nodup := by
  refine List.nodup_iff_injective_getElem.mpr fun i j h => ?_
  have hi : i.val < 256 := tableEntries_length ▸ i.isLt
  have hj : j.val < 256 := tableEntries_length ▸ j.isLt
  have hread : memRead (BitVec.ofNat 8 i) = memRead (BitVec.ofNat 8 j) := by
    simpa [memRead, Nat.mod_eq_of_lt hi, Nat.mod_eq_of_lt hj] using h
  have hindex := congrArg BitVec.toNat (memRead_injective hread)
  rw [BitVec.toNat_ofNat, BitVec.toNat_ofNat] at hindex
  omega

/-- The entries of each quarter XOR to 0, so those of the table do. -/
theorem tableEntries_xor : tableEntries.foldl (· ^^^ ·) 0x0000#16 = 0x0000#16 := by
  have h0 : tableQuarter0.foldl (· ^^^ ·) 0x0000#16 = 0x0000#16 := by decide
  have h1 : tableQuarter1.foldl (· ^^^ ·) 0x0000#16 = 0x0000#16 := by decide
  have h2 : tableQuarter2.foldl (· ^^^ ·) 0x0000#16 = 0x0000#16 := by decide
  have h3 : tableQuarter3.foldl (· ^^^ ·) 0x0000#16 = 0x0000#16 := by decide
  rw [tableEntries, List.foldl_append, List.foldl_append, List.foldl_append, h0, h1, h2, h3]

/-- The sum of the entries, counted on from quarter to quarter. -/
theorem tableEntries_sum : tableEntries.foldl (fun n e => n + e.toNat) 0 = 8380544 := by
  have h0 : tableQuarter0.foldl (fun n e => n + e.toNat) 0 = 1832992 := by decide
  have h1 : tableQuarter1.foldl (fun n e => n + e.toNat) 1832992 = 4190272 := by decide
  have h2 : tableQuarter2.foldl (fun n e => n + e.toNat) 4190272 = 6547552 := by decide
  have h3 : tableQuarter3.foldl (fun n e => n + e.toNat) 6547552 = 8380544 := by decide
  rw [tableEntries, List.foldl_append, List.foldl_append, List.foldl_append, h0, h1, h2, h3]

/-- Settles O31: the printed quarters add up to the figures, and the injective `memRead` makes the entries different. -/
theorem tableHasTheIntegrityFigures : Obligations.TableHasTheIntegrityFigures :=
  ⟨tableEntries_length, tableEntries_xor, tableEntries_sum, tableEntries_nodup, getElem?_tableEntries⟩

end Sys2Proof.Machine
end

section
/-! PROOFS. The textual form of a command stream (spec/30_encoding.md R44, R45): O57. A printed line is a mnemonic and operands,
all of them tokens; the parser takes such a text apart again, and reads from each token what was printed. -/

namespace Sys2Proof.Machine

/-! Numbers in hexadecimal digits. -/

/-- A printed digit is read as its value. -/
theorem hexDigit_hexChar : ∀ n < 16, hexDigit (hexChar n) = some n := by decide

/-- A printed byte is read as that byte. -/
theorem parseByte_printByte (b : Byte) : parseByte (printByte b) = some b := by
  have hb := b.isLt
  have hdigits : 16 * (b.toNat / 16) + b.toNat % 16 = b.toNat := Nat.div_add_mod _ _
  simp only [printByte, parseByte, hexDigit_hexChar (b.toNat / 16) (by omega), hexDigit_hexChar (b.toNat % 16) (by omega),
    hdigits, BitVec.ofNat_toNat, BitVec.setWidth_eq]

/-- A printed word is read as that word. -/
theorem parseWord_printWord (w : CommandWord) : parseWord (printWord w) = some w := by
  have hw : w.toNat < 2048 := w.isLt
  have hdigits : 256 * (w.toNat / 256) + 16 * (w.toNat / 16 % 16) + w.toNat % 16 = w.toNat := by omega
  simp only [printWord, parseWord, hexDigit_hexChar (w.toNat / 256) (by omega),
    hexDigit_hexChar (w.toNat / 16 % 16) (by omega), hexDigit_hexChar (w.toNat % 16) (by omega), hdigits,
    commandWord_of_lt hw, BitVec.ofNat_toNat, BitVec.setWidth_eq, Except.toOption]

/-- Printed bytes are read as those bytes. -/
theorem parseBytes_printed (m : List Byte) : parseBytes (m.map printByte) = some m := by
  induction m with
  | nil => rfl
  | cons b m ih => simp only [List.map_cons, parseBytes, parseByte_printByte, ih]

/-! Tokens, and the shape of a printed line. -/

/-- The character can stand in a mnemonic or an operand: it is no white space, no separator and no comment sign. -/
def isTokenChar (c : Char) : Bool := !isBlank c && c != ',' && c != ';' && c != '\n'

/-- A text that is one mnemonic or one operand. -/
def isToken (t : List Char) : Bool := !t.isEmpty && t.all isTokenChar

/-- Operands as they are printed: a space before each, a comma between two. -/
def printOperands (ts : List (List Char)) : List Char := [','].intercalate (ts.map (' ' :: ·))

/-- The mnemonic of a line. -/
def AsmLine.mnemonic : AsmLine → List Char
  | .nop => ['N', 'O', 'P']
  | .init => ['I', 'N', 'I', 'T']
  | .upd _ => ['U', 'P', 'D']
  | .rd16 => ['R', 'D', '1', '6']
  | .rdlo => ['R', 'D', 'L', 'O']
  | .rdhi => ['R', 'D', 'H', 'I']
  | .word _ => ['.', 'w', 'o', 'r', 'd']
  | .reset => ['R', 'E', 'S', 'E', 'T']
  | .compute _ => ['C', 'O', 'M', 'P', 'U', 'T', 'E']
  | .append _ => ['A', 'P', 'P', 'E', 'N', 'D']
  | .check _ _ _ => ['C', 'H', 'E', 'C', 'K']

/-- The operands of a line, each printed. -/
def AsmLine.operandTexts : AsmLine → List (List Char)
  | .nop | .init | .rd16 | .rdlo | .rdhi | .reset => []
  | .upd d => [printByte d]
  | .word w => [printWord w]
  | .compute m | .append m => m.map printByte
  | .check m lo hi => (m ++ [lo, hi]).map printByte

/-- Byte operands are printed as any operands. -/
theorem printBytes_eq_printOperands : ∀ m : List Byte, printBytes m = printOperands (m.map printByte)
  | [] | [_] => rfl
  | b :: c :: m => by
    rw [printBytes, printBytes_eq_printOperands (c :: m)]
    · simp [printOperands]
    · exact List.cons_ne_nil c m

/-- A line is printed as its mnemonic and its operands. -/
theorem printLine_eq (l : AsmLine) : printLine l = l.mnemonic ++ printOperands l.operandTexts := by
  cases l with
  | nop | init | upd | rd16 | rdlo | rdhi | word | reset => rfl
  | compute | append | check => exact congrArg (_ ++ ·) (printBytes_eq_printOperands _)

/-- The mnemonic and the operands of a printed line are read as that line. -/
theorem parseCommand_printed (l : AsmLine) : parseCommand l.mnemonic l.operandTexts = .ok l := by
  cases l with
  | nop | init | rd16 | rdlo | rdhi | reset => rfl
  | upd d => simp [parseCommand, AsmLine.mnemonic, AsmLine.operandTexts, oneOperand, parseByte_printByte]
  | word w => simp [parseCommand, AsmLine.mnemonic, AsmLine.operandTexts, oneOperand, parseWord_printWord]
  | compute m | append m =>
    simp [parseCommand, AsmLine.mnemonic, AsmLine.operandTexts, bytesLine, parseBytes_printed]
  | check m lo hi =>
    have hlast : checkLine (m ++ [lo, hi]) = .ok (.check m lo hi) := by simp [checkLine]
    have hread : parseCommand (AsmLine.check m lo hi).mnemonic ((m ++ [lo, hi]).map printByte) =
        bytesLine ((m ++ [lo, hi]).map printByte) checkLine := rfl
    rw [AsmLine.operandTexts, hread, bytesLine, parseBytes_printed]
    exact hlast

/-- A token is not empty, and its characters are token characters. -/
theorem isToken_iff {t : List Char} : isToken t = true ↔ t ≠ [] ∧ ∀ c ∈ t, isTokenChar c = true := by
  simp [isToken]

/-- What a token character is not. -/
theorem isTokenChar_iff {c : Char} : isTokenChar c = true ↔ isBlank c = false ∧ c ≠ ',' ∧ c ≠ ';' ∧ c ≠ '\n' := by
  simp [isTokenChar, and_assoc]

/-- Printed digits are token characters. -/
theorem isTokenChar_hexChar : ∀ n < 16, isTokenChar (hexChar n) = true := by decide

/-! All that a line prints, its mnemonic and its operands, is a token. -/

theorem isToken_printByte (b : Byte) : isToken (printByte b) = true := by
  have hb := b.isLt
  have hzeroX : isTokenChar '0' = true ∧ isTokenChar 'x' = true := by decide
  simp [isToken, printByte, hzeroX, isTokenChar_hexChar (b.toNat / 16) (by omega),
    isTokenChar_hexChar (b.toNat % 16) (by omega)]

theorem isToken_printWord (w : CommandWord) : isToken (printWord w) = true := by
  have hw := w.isLt
  have hzeroX : isTokenChar '0' = true ∧ isTokenChar 'x' = true := by decide
  simp [isToken, printWord, hzeroX, isTokenChar_hexChar (w.toNat / 256) (by omega),
    isTokenChar_hexChar (w.toNat / 16 % 16) (by omega), isTokenChar_hexChar (w.toNat % 16) (by omega)]

theorem isToken_mnemonic (l : AsmLine) : isToken l.mnemonic = true := by cases l <;> rfl

theorem isToken_printedBytes (m : List Byte) : ∀ t ∈ m.map printByte, isToken t = true :=
  List.forall_mem_map.mpr fun b _ => isToken_printByte b

theorem isToken_operandTexts (l : AsmLine) : ∀ t ∈ l.operandTexts, isToken t = true := by
  cases l with
  | nop | init | rd16 | rdlo | rdhi | reset => exact fun _ h => absurd h List.not_mem_nil
  | upd d => exact List.forall_mem_singleton.mpr (isToken_printByte d)
  | word w => exact List.forall_mem_singleton.mpr (isToken_printWord w)
  | compute m | append m => exact isToken_printedBytes m
  | check m lo hi => exact isToken_printedBytes (m ++ [lo, hi])

/-! The parser on a text of tokens. -/

/-- `splitAtChar` is the library's `splitOn`. -/
theorem splitAtChar_eq_splitOn (sep : Char) (cs : List Char) : splitAtChar sep cs = cs.splitOn sep := by
  induction cs with
  | nil => rfl
  | cons c cs ih =>
    rw [splitAtChar, ih, List.splitOn, List.splitOn, List.splitOnP_cons_eq_if_modifyHead]
    by_cases h : c = sep
    · simp [h]
    · obtain ⟨piece, pieces, hs⟩ := List.exists_cons_of_ne_nil (List.splitOnP_ne_nil (· == sep) cs)
      simp [h, hs]

/-- Pieces without the separator are found again between the separators. -/
theorem splitAtChar_intercalate {sep : Char} {ts : List (List Char)} (hne : ts ≠ []) (h : ∀ t ∈ ts, sep ∉ t) :
    splitAtChar sep ([sep].intercalate ts) = ts := by
  rw [splitAtChar_eq_splitOn, List.splitOn_intercalate sep h hne]

/-- A character that is neither the separator nor in a piece is not in the text. -/
theorem not_mem_intercalate {x sep : Char} {ts : List (List Char)} (hsep : x ≠ sep) (h : ∀ t ∈ ts, x ∉ t) :
    x ∉ [sep].intercalate ts := by
  induction ts with
  | nil => exact List.not_mem_nil
  | cons t ts ih =>
    obtain ⟨ht, hts⟩ := List.forall_mem_cons.mp h
    cases ts with
    | nil => rwa [List.intercalate_singleton]
    | cons u ts => simp [List.intercalate_cons_cons, ht, hsep, ih hts]

/-- A character that is no token character stands in no token. -/
theorem not_mem_token {x : Char} (hx : isTokenChar x = false) {t : List Char} (ht : isToken t = true) : x ∉ t :=
  fun hmem => Bool.false_ne_true (hx.symm.trans ((isToken_iff.mp ht).2 x hmem))

/-- A character that is no token character stands in no token with a space before it, unless it is that space. -/
theorem not_mem_spaced {x : Char} (hx : isTokenChar x = false) (hspace : x ≠ ' ') {ts : List (List Char)}
    (hts : ∀ t ∈ ts, isToken t = true) : ∀ u ∈ ts.map (' ' :: ·), x ∉ u :=
  List.forall_mem_map.mpr fun t ht => List.not_mem_cons_of_ne_of_not_mem hspace (not_mem_token hx (hts t ht))

/-- No character that is neither a token character nor printed between tokens stands in a text of tokens. -/
theorem not_mem_tokens {x : Char} (hx : isTokenChar x = false) (hcomma : x ≠ ',') (hspace : x ≠ ' ') {mn : List Char}
    {ts : List (List Char)} (hmn : isToken mn = true) (hts : ∀ t ∈ ts, isToken t = true) :
    x ∉ mn ++ printOperands ts := by
  have hops : x ∉ printOperands ts := not_mem_intercalate hcomma (not_mem_spaced hx hspace hts)
  simp [not_mem_token hx hmn, hops]

/-- A token has no white space. -/
theorem isBlank_of_mem_token {t : List Char} (ht : isToken t = true) {c : Char} (hc : c ∈ t) : isBlank c = false :=
  (isTokenChar_iff.mp ((isToken_iff.mp ht).2 c hc)).1

/-- The text begins with a character that is no white space. -/
def beginsTrimmed (cs : List Char) : Bool := cs.head?.any (!isBlank ·)

/-- The text ends with a character that is no white space. -/
def endsTrimmed (cs : List Char) : Bool := cs.getLast?.any (!isBlank ·)

/-- There is no white space to drop from the front of a text that begins with none. -/
theorem dropWhile_isBlank_eq_self {cs : List Char} (h : beginsTrimmed cs = true) : cs.dropWhile isBlank = cs := by
  cases cs with
  | nil => rfl
  | cons c cs => exact List.dropWhile_cons_of_neg (by simpa [beginsTrimmed] using h)

/-- A text without white space at its ends is left as it is. -/
theorem trimBlanks_eq_self {cs : List Char} (hbegin : beginsTrimmed cs = true) (hend : endsTrimmed cs = true) :
    trimBlanks cs = cs := by
  have hback : beginsTrimmed cs.reverse = true := by rwa [beginsTrimmed, List.head?_reverse]
  rw [trimBlanks, dropWhile_isBlank_eq_self hbegin, dropWhile_isBlank_eq_self hback, List.reverse_reverse]

/-- White space before a text is dropped. -/
theorem trimBlanks_space_cons (cs : List Char) : trimBlanks (' ' :: cs) = trimBlanks cs := rfl

/-- A text that begins with a token begins with no white space. -/
theorem beginsTrimmed_token_append {t : List Char} (ht : isToken t = true) (cs : List Char) :
    beginsTrimmed (t ++ cs) = true := by
  cases t with
  | nil => cases ht
  | cons c t => simp [beginsTrimmed, isBlank_of_mem_token ht List.mem_cons_self]

/-- A text ends as its last part does. -/
theorem endsTrimmed_append (cs : List Char) {cs' : List Char} (h : endsTrimmed cs' = true) :
    endsTrimmed (cs ++ cs') = true := by
  cases hlast : cs'.getLast? with
  | none => simp [endsTrimmed, hlast] at h
  | some c => simpa [endsTrimmed, hlast, List.getLast?_append] using h

/-- A token ends with no white space. -/
theorem endsTrimmed_token {t : List Char} (ht : isToken t = true) : endsTrimmed t = true := by
  obtain ⟨hne, -⟩ := isToken_iff.mp ht
  simp [endsTrimmed, List.getLast?_eq_some_getLast hne, isBlank_of_mem_token ht (List.getLast_mem hne)]

/-- A text between separators ends as its last piece does. -/
theorem endsTrimmed_intercalate {sep : Char} {ts : List (List Char)} (hne : ts ≠ []) (h : ∀ t ∈ ts, endsTrimmed t = true) :
    endsTrimmed ([sep].intercalate ts) = true := by
  induction ts with
  | nil => exact absurd rfl hne
  | cons t ts ih =>
    obtain ⟨ht, hts⟩ := List.forall_mem_cons.mp h
    cases ts with
    | nil => rwa [List.intercalate_singleton]
    | cons u ts =>
      rw [List.intercalate_cons_cons]
      exact endsTrimmed_append _ (ih (List.cons_ne_nil u ts) hts)

/-- A token is left as it is. -/
theorem trimBlanks_token {t : List Char} (ht : isToken t = true) : trimBlanks t = t :=
  trimBlanks_eq_self (t.append_nil ▸ beginsTrimmed_token_append ht []) (endsTrimmed_token ht)

/-- Operands are a space and the text of the first of them, with a comma and a space before each other. -/
theorem printOperands_cons (t : List Char) (ts : List (List Char)) :
    printOperands (t :: ts) = ' ' :: [','].intercalate (t :: ts.map (' ' :: ·)) := by
  cases ts <;> simp [printOperands]

/-- A text between separators begins with its first piece. -/
theorem intercalate_cons_eq_append (sep : Char) (t : List Char) (ts : List (List Char)) :
    ∃ cs, [sep].intercalate (t :: ts) = t ++ cs := by
  cases ts with
  | nil => exact ⟨[], by simp⟩
  | cons u ts => exact ⟨sep :: [sep].intercalate (u :: ts), by simp⟩

/-- A token with a space before it ends with no white space. -/
theorem endsTrimmed_spaced {ts : List (List Char)} (hts : ∀ t ∈ ts, isToken t = true) :
    ∀ u ∈ ts.map (' ' :: ·), endsTrimmed u = true :=
  List.forall_mem_map.mpr fun t ht => endsTrimmed_append [' '] (endsTrimmed_token (hts t ht))

/-- Trimming takes away the space before each token. -/
theorem map_trimBlanks_spaced {ts : List (List Char)} (hts : ∀ t ∈ ts, isToken t = true) :
    (ts.map (' ' :: ·)).map trimBlanks = ts := by
  rw [List.map_map]
  exact (List.map_congr_left fun t ht => trimBlanks_token (hts t ht)).trans ts.map_id'

/-- Printed operands are taken apart into the operands. -/
theorem operands_printOperands {ts : List (List Char)} (hts : ∀ t ∈ ts, isToken t = true) :
    operands (trimBlanks (printOperands ts)) = ts := by
  cases ts with
  | nil => rfl
  | cons t ts =>
    obtain ⟨ht, hts⟩ := List.forall_mem_cons.mp hts
    have hne : t :: ts.map (' ' :: ·) ≠ [] := List.cons_ne_nil _ _
    obtain ⟨cs, hcs⟩ := intercalate_cons_eq_append ',' t (ts.map (' ' :: ·))
    have htrim : trimBlanks (printOperands (t :: ts)) = [','].intercalate (t :: ts.map (' ' :: ·)) := by
      rw [printOperands_cons, trimBlanks_space_cons]
      exact trimBlanks_eq_self (hcs ▸ beginsTrimmed_token_append ht cs)
        (endsTrimmed_intercalate hne (List.forall_mem_cons.mpr ⟨endsTrimmed_token ht, endsTrimmed_spaced hts⟩))
    have hsplit : splitAtChar ',' ([','].intercalate (t :: ts.map (' ' :: ·))) = t :: ts.map (' ' :: ·) :=
      splitAtChar_intercalate hne
        (List.forall_mem_cons.mpr ⟨not_mem_token rfl ht, not_mem_spaced rfl (by decide) hts⟩)
    have hnotEmpty : [','].intercalate (t :: ts.map (' ' :: ·)) ≠ [] :=
      hcs ▸ List.append_ne_nil_of_left_ne_nil (isToken_iff.mp ht).1 cs
    rw [htrim, operands, if_neg hnotEmpty, hsplit, List.map_cons, trimBlanks_token ht, map_trimBlanks_spaced hts]

/-- The first word of a text of tokens is its mnemonic, and the rest its operands. -/
theorem takeWhile_tokens {mn : List Char} (hmn : isToken mn = true) (ts : List (List Char)) :
    (mn ++ printOperands ts).takeWhile (fun c => !isBlank c) = mn ∧
      (mn ++ printOperands ts).dropWhile (fun c => !isBlank c) = printOperands ts := by
  have hword : ∀ c ∈ mn, (!isBlank c) = true := fun c hc => by rw [isBlank_of_mem_token hmn hc]; rfl
  rw [List.takeWhile_append_of_pos hword, List.dropWhile_append_of_pos hword]
  cases ts with
  | nil => exact ⟨mn.append_nil, rfl⟩
  | cons t ts => rw [printOperands_cons]; exact ⟨mn.append_nil, rfl⟩

/-- The text of a mnemonic and operands is trimmed. -/
theorem trimBlanks_tokens {mn : List Char} {ts : List (List Char)} (hmn : isToken mn = true)
    (hts : ∀ t ∈ ts, isToken t = true) : trimBlanks (mn ++ printOperands ts) = mn ++ printOperands ts := by
  refine trimBlanks_eq_self (beginsTrimmed_token_append hmn _) ?_
  cases ts with
  | nil => exact mn.append_nil.symm ▸ endsTrimmed_token hmn
  | cons t ts =>
    exact endsTrimmed_append mn (endsTrimmed_intercalate (List.cons_ne_nil _ _) (endsTrimmed_spaced hts))

/-- The comment sign and what follows it are no part of the line (R44). -/
theorem dropComment_append {cs : List Char} (h : ';' ∉ cs) (comment : List Char) :
    dropComment (cs ++ ';' :: comment) = cs := by
  have hbefore : ∀ c ∈ cs, (c != ';') = true := fun c hc => bne_iff_ne.mpr fun hsign => h (hsign ▸ hc)
  rw [dropComment, List.takeWhile_append_of_pos hbefore]
  exact cs.append_nil

/-- A text without the comment sign has no comment. -/
theorem dropComment_eq_self {cs : List Char} (h : ';' ∉ cs) : dropComment cs = cs :=
  List.takeWhile_eq_self_iff.mpr fun _ hc => bne_iff_ne.mpr fun hsign => h (hsign ▸ hc)

/-- The parser takes a text of tokens apart into its mnemonic and its operands. -/
theorem parseLine_tokens {mn : List Char} {ts : List (List Char)} (hmn : isToken mn = true)
    (hts : ∀ t ∈ ts, isToken t = true) : parseLine (mn ++ printOperands ts) = (parseCommand mn ts).map some := by
  obtain ⟨htake, hdrop⟩ := takeWhile_tokens hmn ts
  have hcomment : dropComment (mn ++ printOperands ts) = mn ++ printOperands ts :=
    dropComment_eq_self (not_mem_tokens rfl (by decide) (by decide) hmn hts)
  have hne : mn ++ printOperands ts ≠ [] := List.append_ne_nil_of_left_ne_nil (isToken_iff.mp hmn).1 _
  simp only [parseLine, hcomment, trimBlanks_tokens hmn hts, hne, if_false, htake, hdrop, operands_printOperands hts]

/-- Parsing a printed line gives the line (R44, R45). -/
theorem parseLine_printLine (l : AsmLine) : parseLine (printLine l) = .ok (some l) := by
  rw [printLine_eq, parseLine_tokens (isToken_mnemonic l) (isToken_operandTexts l), parseCommand_printed]
  rfl

/-- A printed line is one line. -/
theorem newline_not_mem_printLine (l : AsmLine) : '\n' ∉ printLine l := by
  rw [printLine_eq]
  exact not_mem_tokens rfl (by decide) (by decide) (isToken_mnemonic l) (isToken_operandTexts l)

/-- Printed lines are assembled into the events of the lines, in order. -/
theorem assembleLines_printed (ls : List AsmLine) :
    assembleLines (ls.map printLine) = .ok (ls.flatMap AsmLine.events) := by
  induction ls with
  | nil => rfl
  | cons l ls ih => simp only [List.map_cons, assembleLines, parseLine_printLine, ih, List.flatMap_cons]

/-- The printed text of a list of lines is assembled into their events. -/
theorem assemble_printed (ls : List AsmLine) :
    assemble (List.intercalate ['\n'] (ls.map printLine)) = .ok (ls.flatMap AsmLine.events) := by
  cases ls with
  | nil => rfl
  | cons l ls =>
    have hlines : ∀ t ∈ (l :: ls).map printLine, '\n' ∉ t :=
      List.forall_mem_map.mpr fun l _ => newline_not_mem_printLine l
    have hne : (l :: ls).map printLine ≠ [] := List.cons_ne_nil _ _
    rw [assemble, splitAtChar_intercalate hne hlines, assembleLines_printed]

/-- Settles O57: the words are those of the encoder, and print and parse agree. -/
theorem assemblerTextStandsForItsWords : Obligations.AssemblerTextStandsForItsWords :=
  ⟨rfl, rfl, fun _ => rfl, rfl, rfl, rfl, fun _ => rfl, rfl,
    fun cs comment h => by rw [parseLine, parseLine, dropComment_append h, dropComment_eq_self h], parseLine_printLine,
    assemble_printed⟩

end Sys2Proof.Machine
end
